-- ==== Sys2Proof/Word.lean ====
section
/-! DEFINITION. The byte, the one width of the machine (00_scope.md R6): registers, addresses,
operand bytes and memory cells are all bytes, and sums on them are modulo 256 (R9). -/

namespace Sys2Proof

/-- A byte: bit 7 the most significant and the sign bit, bit 0 the least significant (R8). -/
abbrev Byte := BitVec 8

end Sys2Proof
end

