-- ==== Sys2Proof/Config.lean ====
section
/-! DEFINITION. What the spec leaves to the board and to the environment (00_scope.md R7,
92_eei_decisions.md D4, D5, D7, D8), and the values the model names where the spec gives none. -/

namespace Sys2Proof

/-- The two memory-mapped I/O ports, at $FB and $FC (20_memory.md R51, R56). -/
inductive Port where
  | fb
  | fc
deriving DecidableEq, Repr

/-- What a board fixes and no step changes (R7).  It stands in State as plain data, so a statement
about every state holds for every board. -/
structure Board where
  /-- `TRAP_SETS_I`: whether trap entry sets CC.I (60_exceptions.md R244, D4, log entry 3). -/
  trapSetsI : Bool
  /-- The addresses at which `MEM_WRITABLE` is false (20_memory.md R54, D7, log entry 4). -/
  readOnly : List Byte
deriving DecidableEq, Repr

namespace Config

/-- The free value of an I/O port: what the environment presents at the k-th read of a port for which
State lists no byte (R57, D8, U8: nothing constrains it; log entry 5). -/
opaque portIn (p : Port) (k : Nat) : Byte

/-- What a memory cell reads as when State lists no entry for it.
DESIGN CHOICE, unsafe (log entry 2): the spec gives no value (R53, U4). -/
def unlistedByte : Byte := 0x00

/-- A, X, Y and SP right after the first reset.
DESIGN CHOICE, unsafe (log entry 1): the spec gives no value (10_state.md R41, U5). -/
def resetRegister : Byte := 0x00

/-- N, Z, V and C right after the first reset.
DESIGN CHOICE, unsafe (log entry 1): the spec gives no value (R41, U5). -/
def resetFlag : Bool := false

/-- The board of `State.reset`: the spec's recommended defaults, `TRAP_SETS_I` true (D4) and every
location writable (D7).  DESIGN CHOICE (log entries 3 and 4). -/
def defaultBoard : Board := { trapSetsI := true, readOnly := [] }

/-- The IRQ vector, the trap vector and the reset vector (20_memory.md R51). -/
def irqVector : Byte := 0xFD
def trapVector : Byte := 0xFE
def resetVector : Byte := 0xFF

end Config

end Sys2Proof
end

