-- ==== Sys2Proof/Machine/State.lean ====
section
/-! DEFINITION. The state of the machine (10_state.md R25), as plain data, with the environment's inputs
and outputs (00_scope.md R7, 70_reset_and_hazards.md R293) beside the registers; the reasons a step
can stop; and the state right after reset (R41). -/

namespace Sys2Proof.Machine

/-- Register CC (10_state.md R31): the five flags in bits 4 to 0.  Bits 7 to 5 are not storage (R32). -/
structure CC where
  /-- I, bit 4: the interrupt mask; true masks the interrupt (R33, 60_exceptions.md R245). -/
  i : Bool
  /-- N, bit 3: negative. -/
  n : Bool
  /-- Z, bit 2: zero. -/
  z : Bool
  /-- V, bit 1: two's complement overflow. -/
  v : Bool
  /-- C, bit 0: carry, or borrow after a subtraction. -/
  c : Bool
deriving DecidableEq, Repr

/-- The 256 byte cells (20_memory.md R50) as a list of (address, byte) in one canonical form: addresses
strictly rising, and no entry equal to `Config.unlistedByte`, which an unlisted address reads as. -/
abbrev Memory := List Host.Cell

/-- The input side of an I/O port (20_memory.md R56, R57). -/
structure PortInput where
  /-- The bytes the environment presents at the reads to come, the next one first. -/
  pending : List Byte
  /-- How many reads of the port have been made: the k of `PORT_IN(port, k)`. -/
  reads : Nat
deriving DecidableEq, Repr

/-- What the Reset line does around an instruction boundary (00_scope.md R20, 60_exceptions.md R247). -/
inductive ResetLine where
  /-- Not asserted. -/
  | idle
  /-- Asserted at the boundary: the step is a reset (R280). -/
  | atBoundary
  /-- Asserted in the middle of the step that begins here (R282, U6). -/
  | insideInstruction
deriving DecidableEq, Repr

/-- The sampled input lines at one instruction boundary (R20, R245). -/
structure Boundary where
  reset : ResetLine
  /-- `IRQ_LINE` at this boundary. -/
  irq : Bool
deriving DecidableEq, Repr

/-- A boundary at which neither line is asserted. -/
def Boundary.quiet : Boundary := { reset := .idle, irq := false }

/-- The state.  `a` to `cc` and `mem` are the spec's architectural state (R25); the rest is what R293
calls the environment: port inputs, the trace of port outputs, the input lines, and the board. -/
structure State where
  /-- A, the accumulator (R26). -/
  a : Byte
  /-- X, an address register (R27). -/
  x : Byte
  /-- Y, an address register (R27). -/
  y : Byte
  /-- SP, the stack pointer (R28). -/
  sp : Byte
  /-- PC, the program counter (R30). -/
  pc : Byte
  /-- CC, the flag register (R31). -/
  cc : CC
  /-- Memory (R50, R52). -/
  mem : Memory
  /-- The input side of port $FB. -/
  portFB : PortInput
  /-- The input side of port $FC. -/
  portFC : PortInput
  /-- `PORT_OUT`: the bytes written to the ports, oldest first (R56, D8). -/
  portOut : List (Port × Byte)
  /-- The input lines at the boundaries to come, the next one first; past the end both are idle (D9). -/
  lines : List Boundary
  /-- What the board fixes; no step changes it. -/
  board : Board
deriving DecidableEq, Repr

/-- Why the machine stops. -/
inductive Fault where
  /-- Raised by `step` alone, when Reset is asserted in the middle of the instruction (R282): the state
  it leaves is not derivable and U6 asks that the step return an error.  Safe: the hardware goes on
  and the model claims nothing of it (log entry 8). -/
  | resetInsideInstruction
deriving DecidableEq, Repr

/-- Why an instruction has no meaning. -/
inductive Refusal where
  /-- Raised by `exec` for an instruction without a meaning.  Safe.  No arm raises it. -/
  | notModelled (mnemonic : String)
deriving DecidableEq, Repr

/-- What a meaning answers. -/
abbrev Result := Host.Outcome State Fault Refusal

/-- The machine right after reset (R280, R41): CC.I is 1 and PC is the byte at the reset vector, which
in a memory that lists nothing is `Config.unlistedByte`.  The other registers and flags are
unspecified (R41, U5) and take the values the log names (entries 1 and 2). -/
def State.reset : State where
  a := Config.resetRegister
  x := Config.resetRegister
  y := Config.resetRegister
  sp := Config.resetRegister
  pc := Config.unlistedByte
  cc :=
    { i := true, n := Config.resetFlag, z := Config.resetFlag, v := Config.resetFlag,
      c := Config.resetFlag }
  mem := []
  portFB := { pending := [], reads := 0 }
  portFC := { pending := [], reads := 0 }
  portOut := []
  lines := []
  board := Config.defaultBoard

end Sys2Proof.Machine
end

