-- ==== Sys2Proof/Machine/Flags.lean ====
section
/-! DEFINITION. CC as a byte (10_state.md R31, R32) and every computation of a result and its flags
(00_scope.md R15, the flag table R34, and the Operation line of each instruction's rule). -/

namespace Sys2Proof.Machine

/-- CC read as a byte, `0b000_I_N_Z_V_C` (R32). -/
def CC.toByte (cc : CC) : Byte :=
  (if cc.i then 0x10 else 0) ||| (if cc.n then 0x08 else 0) ||| (if cc.z then 0x04 else 0)
    ||| (if cc.v then 0x02 else 0) ||| (if cc.c then 0x01 else 0)

/-- A byte written to CC: bits 7 to 5 are discarded (R32). -/
def CC.ofByte (b : Byte) : CC :=
  { i := b.getLsbD 4, n := b.getLsbD 3, z := b.getLsbD 2, v := b.getLsbD 1, c := b.getLsbD 0 }

/-- A sum or difference with its carry and overflow (R15). -/
structure Sum8 where
  r : Byte
  c : Bool
  v : Bool
deriving DecidableEq, Repr

/-- `v = 1` iff the exact signed result lies outside -128..127 (R15). -/
def outsideSigned (t : Int) : Bool := decide (t < -128) || decide (127 < t)

/-- `add8(a, b, cin)` (R15). -/
def add8 (a b : Byte) (cin : Bool) : Sum8 :=
  { r := BitVec.ofNat 8 (a.toNat + b.toNat + cin.toNat)
    c := decide (256 ≤ a.toNat + b.toNat + cin.toNat)
    v := outsideSigned (a.toInt + b.toInt + cin.toNat) }

/-- `sub8(a, b, bin)` (R15): `c` is the borrow. -/
def sub8 (a b : Byte) (bin : Bool) : Sum8 :=
  { r := BitVec.ofInt 8 ((a.toNat : Int) - b.toNat - bin.toNat)
    c := decide ((a.toNat : Int) - b.toNat - bin.toNat < 0)
    v := outsideSigned (a.toInt - b.toInt - bin.toNat) }

/-- `setNZ(r)` (R15). -/
def CC.setNZ (cc : CC) (r : Byte) : CC := { cc with n := r.msb, z := r == 0 }

/-- N and Z of the result, V and C of the sum; I kept (R34, ADDA to CMPSP, NEG). -/
def CC.ofSum (cc : CC) (s : Sum8) : CC := { cc.setNZ s.r with v := s.v, c := s.c }

/-- N and Z of the result, V cleared; I and C kept (R34, the loads and the logic instructions). -/
def CC.ofLogic (cc : CC) (r : Byte) : CC := { cc.setNZ r with v := false }

/-- A result and the flags after it. -/
structure Computed where
  val : Byte
  cc : CC
deriving DecidableEq, Repr

/-- ADDA (43_arithmetic.md R155). -/
def computeAdd (a b : Byte) (cc : CC) : Computed :=
  { val := (add8 a b false).r, cc := cc.ofSum (add8 a b false) }

/-- ADCA (R156): the old C is carried in. -/
def computeAdc (a b : Byte) (cc : CC) : Computed :=
  { val := (add8 a b cc.c).r, cc := cc.ofSum (add8 a b cc.c) }

/-- SUBA (R157), and the flags of CMP (44_test.md R175). -/
def computeSub (a b : Byte) (cc : CC) : Computed :=
  { val := (sub8 a b false).r, cc := cc.ofSum (sub8 a b false) }

/-- SBCA (R158): the old C is borrowed in. -/
def computeSbc (a b : Byte) (cc : CC) : Computed :=
  { val := (sub8 a b cc.c).r, cc := cc.ofSum (sub8 a b cc.c) }

/-- ANDA (45_logic.md R185), and the flags of BITA (44_test.md R180). -/
def computeAnd (a b : Byte) (cc : CC) : Computed := { val := a &&& b, cc := cc.ofLogic (a &&& b) }

/-- ORA (R186). -/
def computeOr (a b : Byte) (cc : CC) : Computed := { val := a ||| b, cc := cc.ofLogic (a ||| b) }

/-- EORA (R189). -/
def computeEor (a b : Byte) (cc : CC) : Computed := { val := a ^^^ b, cc := cc.ofLogic (a ^^^ b) }

/-- CLRA and CLR (43_arithmetic.md R159, R160): N Z V C = 0 1 0 0. -/
def computeClr (cc : CC) : Computed :=
  { val := 0, cc := { cc with n := false, z := true, v := false, c := false } }

/-- NEGA and NEG (R161, R162): `sub8(0, m, 0)`; C is 1 iff the old value is not zero (C12). -/
def computeNeg (m : Byte) (cc : CC) : Computed :=
  { val := (sub8 0 m false).r, cc := cc.ofSum (sub8 0 m false) }

/-- INCA and INC (R165, R166): V iff the old value is $7F, C kept. -/
def computeInc (m : Byte) (cc : CC) : Computed :=
  { val := m + 1, cc := { cc.setNZ (m + 1) with v := m == 0x7F } }

/-- DECA and DEC (R163, R164): V iff the old value is $80, C kept. -/
def computeDec (m : Byte) (cc : CC) : Computed :=
  { val := m - 1, cc := { cc.setNZ (m - 1) with v := m == 0x80 } }

/-- COMA and COM (45_logic.md R190, R191). -/
def computeCom (m : Byte) (cc : CC) : Computed :=
  { val := m ^^^ 0xFF, cc := cc.ofLogic (m ^^^ 0xFF) }

/-- TSTA and TST (44_test.md R181, R182): V and C cleared. -/
def flagsTst (m : Byte) (cc : CC) : CC := { cc.setNZ m with v := false, c := false }

/-- Left shift by one place, `cin` into bit 0 (46_shift_rotate.md R195). -/
def shiftLeft (m : Byte) (cin : Bool) : Byte := (m <<< 1) ||| (if cin then 0x01 else 0)

/-- Right shift by one place, `cin` into bit 7 (R195). -/
def shiftRight (m : Byte) (cin : Bool) : Byte := (m >>> 1) ||| (if cin then 0x80 else 0)

/-- A left shift's flags: C the bit shifted out, V iff the sign changed (R195). -/
def computeLeft (cin : Bool) (m : Byte) (cc : CC) : Computed :=
  { val := shiftLeft m cin
    cc := { cc.setNZ (shiftLeft m cin) with v := m.msb != (shiftLeft m cin).msb, c := m.msb } }

/-- A right shift's flags (R195), V iff the sign changed (LSR, ROR). -/
def computeRight (cin : Bool) (m : Byte) (cc : CC) : Computed :=
  { val := shiftRight m cin
    cc :=
      { cc.setNZ (shiftRight m cin) with v := m.msb != (shiftRight m cin).msb, c := m.getLsbD 0 } }

/-- LSLA and LSL (R198, R199): 0 enters bit 0. -/
def computeLsl (m : Byte) (cc : CC) : Computed := computeLeft false m cc

/-- ROLA and ROL (R202, R203): the old C enters bit 0. -/
def computeRol (m : Byte) (cc : CC) : Computed := computeLeft cc.c m cc

/-- LSRA and LSR (R200, R201): 0 enters bit 7. -/
def computeLsr (m : Byte) (cc : CC) : Computed := computeRight false m cc

/-- RORA and ROR (R204, R205): the old C enters bit 7. -/
def computeRor (m : Byte) (cc : CC) : Computed := computeRight cc.c m cc

/-- ASRA and ASR (R196, R197): bit 7 keeps its value and V is cleared. -/
def computeAsr (m : Byte) (cc : CC) : Computed :=
  { val := shiftRight m m.msb
    cc := { cc.setNZ (shiftRight m m.msb) with v := false, c := m.getLsbD 0 } }

/-- The conditions of the fourteen branches (42_flow_control.md R136 to R149). -/
def condMI (cc : CC) : Bool := cc.n
def condPL (cc : CC) : Bool := !cc.n
def condEQ (cc : CC) : Bool := cc.z
def condNE (cc : CC) : Bool := !cc.z
def condVS (cc : CC) : Bool := cc.v
def condVC (cc : CC) : Bool := !cc.v
def condCS (cc : CC) : Bool := cc.c
def condCC (cc : CC) : Bool := !cc.c
def condHI (cc : CC) : Bool := !(cc.c || cc.z)
def condLS (cc : CC) : Bool := cc.c || cc.z
def condGT (cc : CC) : Bool := !(xor cc.n cc.v || cc.z)
def condGE (cc : CC) : Bool := !(xor cc.n cc.v)
def condLE (cc : CC) : Bool := xor cc.n cc.v || cc.z
def condLT (cc : CC) : Bool := xor cc.n cc.v

end Sys2Proof.Machine
end

