-- ==== Sys2Proof/Machine/Ops.lean ====
section
/-! DEFINITION. The named operations over registers, memory, ports and the stack (00_scope.md R11 to
R14, 20_memory.md), and taking an exception and returning from one (60_exceptions.md R243 to R249,
70_reset_and_hazards.md R280). -/

namespace Sys2Proof.Machine

/-! Register updates (00_scope.md R11). -/

def State.setA (s : State) (v : Byte) : State := { s with a := v }
def State.setX (s : State) (v : Byte) : State := { s with x := v }
def State.setY (s : State) (v : Byte) : State := { s with y := v }
def State.setSP (s : State) (v : Byte) : State := { s with sp := v }
def State.setPC (s : State) (v : Byte) : State := { s with pc := v }
def State.setCC (s : State) (v : CC) : State := { s with cc := v }

/-! Memory cells. -/

/-- The byte at an address. -/
def Memory.lookup : Memory → Nat → Byte
  | [], _ => Config.unlistedByte
  | (k, v) :: rest, a => if k = a then v else Memory.lookup rest a

/-- The cells without those at an address. -/
def Memory.erase : Memory → Nat → Memory
  | [], _ => []
  | (k, v) :: rest, a => if k = a then Memory.erase rest a else (k, v) :: Memory.erase rest a

/-- A cell put before the first one of a higher address. -/
def Memory.insert : Memory → Nat → Byte → Memory
  | [], a, b => [(a, b)]
  | (k, v) :: rest, a, b =>
    if a < k then (a, b) :: (k, v) :: rest else (k, v) :: Memory.insert rest a b

/-- The cells with a byte replaced, in canonical form. -/
def Memory.update (m : Memory) (a : Nat) (b : Byte) : Memory :=
  if b = Config.unlistedByte then m.erase a else (m.erase a).insert a b

/-- The canonical form: addresses below 256, strictly rising, and no entry equal to what an unlisted
address reads as. -/
def Memory.wf : Memory → Bool
  | [] => true
  | (k, v) :: rest =>
    decide (k < 256) && v != Config.unlistedByte && rest.all (fun cell => decide (k < cell.1))
      && Memory.wf rest

/-- The byte that memory holds at an address (no port is involved: the cells at $FB and $FC are never
written). -/
def State.cell (s : State) (a : Byte) : Byte := s.mem.lookup a.toNat

def State.setCell (s : State) (a b : Byte) : State := { s with mem := s.mem.update a.toNat b }

/-! The ports (20_memory.md R51, R56). -/

/-- The port at an address. -/
def portAt (a : Byte) : Option Port :=
  if a = 0xFB then some .fb else if a = 0xFC then some .fc else none

def State.port (s : State) : Port → PortInput
  | .fb => s.portFB
  | .fc => s.portFC

def State.setPort (s : State) : Port → PortInput → State
  | .fb, p => { s with portFB := p }
  | .fc, p => { s with portFC := p }

/-- `PORT_IN(port, k)` for the next read: the byte the environment is listed to present, and where it
lists none the free value (R57, log entry 5). -/
def State.portNext (s : State) (p : Port) : Byte :=
  match (s.port p).pending with
  | b :: _ => b
  | [] => Config.portIn p (s.port p).reads

/-- One read of a port has been made. -/
def PortInput.consume (p : PortInput) : PortInput :=
  { pending := p.pending.tail, reads := p.reads + 1 }

/-- A byte written to a port: an output event (R56). -/
def State.emit (s : State) (p : Port) (v : Byte) : State :=
  { s with portOut := s.portOut ++ [(p, v)] }

/-! `MemRead` and `MemWrite` (00_scope.md R12, 20_memory.md R52 to R57). -/

/-- The byte `MemRead(a, 1)` returns. -/
def State.readVal (s : State) (a : Byte) : Byte :=
  match portAt a with
  | some p => s.portNext p
  | none => s.cell a

/-- The state `MemRead(a, 1)` leaves: only a port read changes anything (R52, R57). -/
def State.afterRead (s : State) (a : Byte) : State :=
  match portAt a with
  | some p => s.setPort p (s.port p).consume
  | none => s

/-- `MEM_WRITABLE(a)` (R54). -/
def State.writable (s : State) (a : Byte) : Bool := !s.board.readOnly.contains a

/-- `MemWrite(a, 1, v)`: an output event at a port (R56), no effect at a read-only address (R54). -/
def State.write (s : State) (a v : Byte) : State :=
  match portAt a with
  | some p => s.emit p v
  | none => if s.writable a then s.setCell a v else s

/-! Fetch and stack primitives (00_scope.md R13, R14). -/

/-- `fetch8()`: the byte and the state after it. -/
def fetch8 (s : State) : Byte × State := (s.readVal s.pc, (s.afterRead s.pc).setPC (s.pc + 1))

/-- `push8(v)`: the stack pointer is updated first. -/
def push8 (s : State) (v : Byte) : State := (s.setSP (s.sp - 1)).write (s.sp - 1) v

/-- `pull8()`: the stack pointer is updated afterwards. -/
def pull8 (s : State) : Byte × State := (s.readVal s.sp, (s.afterRead s.sp).setSP (s.sp + 1))

/-! Taking an exception, reset, and the return (60_exceptions.md). -/

/-- The five bytes of the frame, PC first and CC last (R243). -/
def pushFrame (s : State) : State :=
  push8 (push8 (push8 (push8 (push8 s s.pc) s.y) s.x) s.a) s.cc.toByte

/-- `PC <- MemRead(vector, 1)` (20_memory.md R55). -/
def loadVector (s : State) (vector : Byte) : State :=
  (s.afterRead vector).setPC (s.readVal vector)

/-- Taking an exception: the frame is pushed with the flags before entry, then I is set where the event
sets it, then PC is read from the vector (R244, R246). -/
def takeException (s : State) (vector : Byte) (setI : Bool) : State :=
  loadVector ((pushFrame s).setCC { s.cc with i := setI || s.cc.i }) vector

/-- Trap entry (R244): PC is already past the illegal opcode.  I is set if `TRAP_SETS_I`. -/
def trapEntry (s : State) : State := takeException s Config.trapVector s.board.trapSetsI

/-- IRQ entry (R246): I is set. -/
def irqEntry (s : State) : State := takeException s Config.irqVector true

/-- The reset action (70_reset_and_hazards.md R280, R282): I is set and PC is read from the reset vector;
nothing is stacked and nothing else changes. -/
def resetEntry (s : State) : State :=
  loadVector (s.setCC { s.cc with i := true }) Config.resetVector

/-- The return from an exception (60_exceptions.md R249, 42_flow_control.md R151): CC, A, X, Y and PC
are pulled, in this order. -/
def returnFromException (s : State) : State :=
  let c := pull8 s
  let a := pull8 (c.2.setCC (CC.ofByte c.1))
  let x := pull8 (a.2.setA a.1)
  let y := pull8 (x.2.setX x.1)
  let p := pull8 (y.2.setY y.1)
  p.2.setPC p.1

/-! The input lines (00_scope.md R20, 60_exceptions.md R245). -/

/-- The lines sampled at the boundary the machine is at. -/
def State.boundary (s : State) : Boundary := s.lines.headD Boundary.quiet

/-- The boundary is behind: each step reads the lines once. -/
def State.passBoundary (s : State) : State := { s with lines := s.lines.tail }

/-- The interrupt is taken here: the line is up and I is 0 (R245). -/
def State.interruptTaken (s : State) : Bool := s.boundary.irq && !s.cc.i

/-- The relative target or the next instruction (42_flow_control.md R130, R135): PC is already past the
branch. -/
def branchIf (taken : Bool) (n : Byte) (s : State) : State :=
  if taken then s.setPC (s.pc + n) else s

end Sys2Proof.Machine
end

