-- ==== Sys2Proof/Syntax.lean ====
section
/-! DEFINITION. The instructions (30_encoding.md R80, spec/opcode_table.json).  One constructor for
each mnemonic of the table; the table's rows that share a mnemonic differ in the addressing mode, which
is the constructor's argument (log entry 12).  Operand bytes are the byte after the opcode (R75). -/

namespace Sys2Proof

/-- The addressing modes that name a place in memory (30_encoding.md R77, R86 to R95). -/
inductive MemMode where
  /-- ab, `Adr` (R86). -/
  | ab (n : Byte)
  /-- ns, `n,SP` (R88). -/
  | ns (n : Byte)
  /-- nx, `n,X` (R89). -/
  | nx (n : Byte)
  /-- ny, `n,Y` (R89). -/
  | ny (n : Byte)
  /-- ax, `A,X` (R91). -/
  | ax
  /-- ay, `A,Y` (R91). -/
  | ay
  /-- x+, `,X+` (R92). -/
  | xPostInc
  /-- x-, `,X-` (R93). -/
  | xPostDec
  /-- +x, `,+X` (R94). -/
  | xPreInc
  /-- -x, `,-X` (R95). -/
  | xPreDec
  /-- y+, `,Y+` (R92). -/
  | yPostInc
  /-- y-, `,Y-` (R93). -/
  | yPostDec
  /-- +y, `,+Y` (R94). -/
  | yPreInc
  /-- -y, `,-Y` (R95). -/
  | yPreDec
deriving DecidableEq, Repr

/-- A source operand: immediate data (R85) or a byte in memory. -/
inductive Operand where
  | im (n : Byte)
  | mem (m : MemMode)
deriving DecidableEq, Repr

/-- The instruction set (R80), in the table's order of mnemonics.  A branch carries its offset byte
(R87), an illegal opcode the opcode itself (R81). -/
inductive Instr where
  | nop
  | andcc (n : Byte)
  | orcc (n : Byte)
  | illegal (opcode : Byte)
  | clra
  | nega
  | inca
  | deca
  | tsta
  | coma
  | lsla
  | lsra
  | rola
  | rora
  | asra
  | psha
  | pshx
  | pshy
  | pshcc
  | pula
  | pulx
  | puly
  | pulcc
  | tfrACC
  | tfrCCA
  | tfrXY
  | tfrYX
  | tfrXSP
  | tfrSPX
  | tfrYSP
  | tfrSPY
  | bsr (n : Byte)
  | bra (n : Byte)
  | bmi (n : Byte)
  | bpl (n : Byte)
  | beq (n : Byte)
  | bne (n : Byte)
  | bvs (n : Byte)
  | bvc (n : Byte)
  | bcs (n : Byte)
  | bcc (n : Byte)
  | bhi (n : Byte)
  | bls (n : Byte)
  | bgt (n : Byte)
  | bge (n : Byte)
  | ble (n : Byte)
  | blt (n : Byte)
  | stx (m : MemMode)
  | sty (m : MemMode)
  | stsp (m : MemMode)
  | jmp (m : MemMode)
  | jsr (m : MemMode)
  | clr (m : MemMode)
  | neg (m : MemMode)
  | inc (m : MemMode)
  | dec (m : MemMode)
  | tst (m : MemMode)
  | com (m : MemMode)
  | lsl (m : MemMode)
  | lsr (m : MemMode)
  | rol (m : MemMode)
  | ror (m : MemMode)
  | asr (m : MemMode)
  | rts
  | rti
  | ldx (o : Operand)
  | ldy (o : Operand)
  | ldsp (o : Operand)
  | sbca (o : Operand)
  | suba (o : Operand)
  | adca (o : Operand)
  | adda (o : Operand)
  | cmpa (o : Operand)
  | bita (o : Operand)
  | anda (o : Operand)
  | ora (o : Operand)
  | eora (o : Operand)
  | cmpx (o : Operand)
  | cmpy (o : Operand)
  | cmpsp (o : Operand)
  | exgACC
  | exgXY
  | leasp (m : MemMode)
  | exgXSP
  | leax (m : MemMode)
  | leay (m : MemMode)
  | exgYSP
  | sta (m : MemMode)
  | lda (o : Operand)
deriving DecidableEq, Repr

end Sys2Proof
end

