-- ==== Sys2Proof/Machine/Operands.lean ====
section
/-! DEFINITION. The addressing modes (30_encoding.md R84 to R95) and the shapes of the instructions that
use them, with the accesses in the order of 20_memory.md R60. -/

namespace Sys2Proof.Machine

/-- The index register's change before the access: the pre modes (R94, R95). -/
def preUpdate (m : MemMode) (s : State) : State :=
  match m with
  | .xPreInc => s.setX (s.x + 1)
  | .xPreDec => s.setX (s.x - 1)
  | .yPreInc => s.setY (s.y + 1)
  | .yPreDec => s.setY (s.y - 1)
  | _ => s

/-- The index register's change after the access: the post modes (R92, R93). -/
def postUpdate (m : MemMode) (s : State) : State :=
  match m with
  | .xPostInc => s.setX (s.x + 1)
  | .xPostDec => s.setX (s.x - 1)
  | .yPostInc => s.setY (s.y + 1)
  | .yPostDec => s.setY (s.y - 1)
  | _ => s

/-- The address the mode's registers give as they stand, modulo 256 (R86 to R95). -/
def baseAddress (m : MemMode) (s : State) : Byte :=
  match m with
  | .ab n => n
  | .ns n => s.sp + n
  | .nx n => s.x + n
  | .ny n => s.y + n
  | .ax => s.x + s.a
  | .ay => s.y + s.a
  | .xPostInc | .xPostDec | .xPreInc | .xPreDec => s.x
  | .yPostInc | .yPostDec | .yPreInc | .yPreDec => s.y

/-- EA: a pre mode uses the new value of its register (R94, R95). -/
def effectiveAddress (m : MemMode) (s : State) : Byte := baseAddress m (preUpdate m s)

/-- A read of the operand in memory: the byte and the state after it. -/
def readMem (m : MemMode) (s : State) : Byte × State :=
  ((preUpdate m s).readVal (effectiveAddress m s),
    postUpdate m ((preUpdate m s).afterRead (effectiveAddress m s)))

/-- A write of the operand in memory. -/
def writeMem (m : MemMode) (v : Byte) (s : State) : State :=
  postUpdate m ((preUpdate m s).write (effectiveAddress m s) v)

/-- `Opr`: the operand byte itself (R85) or the byte at EA. -/
def readOperand (o : Operand) (s : State) : Byte × State :=
  match o with
  | .im n => (n, s)
  | .mem m => readMem m s

/-! The shapes of the instructions.  Every one is a next state. -/

/-- A load: the operand into a register, N and Z of it, V cleared (40_load_store.md R111 to R114). -/
def loadInto (setR : State → Byte → State) (o : Operand) (s : State) : State :=
  let r := readOperand o s
  (setR r.2 r.1).setCC (r.2.cc.ofLogic r.1)

/-- A two-operand instruction on A: A and the operand into A, with the flags. -/
def computeIntoA (f : Byte → Byte → CC → Computed) (o : Operand) (s : State) : State :=
  let r := readOperand o s
  let t := f r.2.a r.1 r.2.cc
  (r.2.setA t.val).setCC t.cc

/-- A comparison: a register and the operand, only the flags are kept (44_test.md R175, R180). -/
def compareWith (f : Byte → Byte → CC → Computed) (reg : State → Byte) (o : Operand) (s : State) :
    State :=
  let r := readOperand o s
  r.2.setCC (f (reg r.2) r.1 r.2.cc).cc

/-- An inherent instruction on A. -/
def modifyA (f : Byte → CC → Computed) (s : State) : State :=
  let t := f s.a s.cc
  (s.setA t.val).setCC t.cc

/-- A read-modify-write: one read and then one write at the same EA, computed once (20_memory.md R62). -/
def modifyMem (f : Byte → CC → Computed) (m : MemMode) (s : State) : State :=
  let ea := effectiveAddress m s
  let s1 := preUpdate m s
  let t := f (s1.readVal ea) s1.cc
  (postUpdate m ((s1.afterRead ea).write ea t.val)).setCC t.cc

end Sys2Proof.Machine
end

