-- ==== Sys2Proof/Machine/Arithmetic.lean ====
section
/-! DEFINITION. The integer arithmetic instructions (43_arithmetic.md). -/

namespace Sys2Proof.Machine

/-- ADDA (R155). -/
def execAdda (o : Operand) (s : State) : Result := .next (computeIntoA computeAdd o s)

/-- ADCA (R156). -/
def execAdca (o : Operand) (s : State) : Result := .next (computeIntoA computeAdc o s)

/-- SUBA (R157). -/
def execSuba (o : Operand) (s : State) : Result := .next (computeIntoA computeSub o s)

/-- SBCA (R158). -/
def execSbca (o : Operand) (s : State) : Result := .next (computeIntoA computeSbc o s)

/-- CLRA (R159). -/
def execClra (s : State) : Result := .next (modifyA (fun _ cc => computeClr cc) s)

/-- CLR (R160): the write is made without a read (20_memory.md R61). -/
def execClr (m : MemMode) (s : State) : Result :=
  .next ((writeMem m (computeClr s.cc).val s).setCC (computeClr s.cc).cc)

/-- NEGA (R161). -/
def execNega (s : State) : Result := .next (modifyA computeNeg s)

/-- NEG (R162). -/
def execNeg (m : MemMode) (s : State) : Result := .next (modifyMem computeNeg m s)

/-- DECA (R163). -/
def execDeca (s : State) : Result := .next (modifyA computeDec s)

/-- DEC (R164). -/
def execDec (m : MemMode) (s : State) : Result := .next (modifyMem computeDec m s)

/-- INCA (R165). -/
def execInca (s : State) : Result := .next (modifyA computeInc s)

/-- INC (R166). -/
def execInc (m : MemMode) (s : State) : Result := .next (modifyMem computeInc m s)


end Sys2Proof.Machine
end

