-- ==== Sys2Proof/Machine/Compare.lean ====
section
/-! DEFINITION. The compare and test instructions (44_test.md). -/

namespace Sys2Proof.Machine

/-- CMPA (R176). -/
def execCmpa (o : Operand) (s : State) : Result := .next (compareWith computeSub State.a o s)

/-- CMPX (R177). -/
def execCmpx (o : Operand) (s : State) : Result := .next (compareWith computeSub State.x o s)

/-- CMPY (R178). -/
def execCmpy (o : Operand) (s : State) : Result := .next (compareWith computeSub State.y o s)

/-- CMPSP (R179). -/
def execCmpsp (o : Operand) (s : State) : Result := .next (compareWith computeSub State.sp o s)

/-- BITA (R180). -/
def execBita (o : Operand) (s : State) : Result := .next (compareWith computeAnd State.a o s)

/-- TSTA (R181). -/
def execTsta (s : State) : Result := .next (s.setCC (flagsTst s.a s.cc))

/-- TST (R182): memory is read once and not written (20_memory.md R61). -/
def execTst (m : MemMode) (s : State) : Result :=
  .next ((readMem m s).2.setCC (flagsTst (readMem m s).1 s.cc))


end Sys2Proof.Machine
end

