-- ==== Sys2Proof/Machine/DataMovement.lean ====
section
/-! DEFINITION. The register-to-register instructions TFR and EXG (41_data_movement.md). -/

namespace Sys2Proof.Machine

/-- TFR A,CC (R125): bits 7 to 5 of A are discarded. -/
def execTfrACC (s : State) : Result := .next (s.setCC (CC.ofByte s.a))

/-- TFR CC,A (R126). -/
def execTfrCCA (s : State) : Result := .next (s.setA s.cc.toByte)

/-- TFR X,Y (R127): the first register named is the source (R106). -/
def execTfrXY (s : State) : Result := .next (s.setY s.x)

/-- TFR Y,X (R127): the first register named is the source (R106). -/
def execTfrYX (s : State) : Result := .next (s.setX s.y)

/-- TFR X,SP (R127): the first register named is the source (R106). -/
def execTfrXSP (s : State) : Result := .next (s.setSP s.x)

/-- TFR SP,X (R127): the first register named is the source (R106). -/
def execTfrSPX (s : State) : Result := .next (s.setX s.sp)

/-- TFR Y,SP (R127): the first register named is the source (R106). -/
def execTfrYSP (s : State) : Result := .next (s.setSP s.y)

/-- TFR SP,Y (R127): the first register named is the source (R106). -/
def execTfrSPY (s : State) : Result := .next (s.setY s.sp)

/-- EXG A,CC (R128): both are read before either is written. -/
def execExgACC (s : State) : Result := .next ((s.setA s.cc.toByte).setCC (CC.ofByte s.a))

/-- EXG X,Y (R129). -/
def execExgXY (s : State) : Result := .next ((s.setX s.y).setY s.x)

/-- EXG X,SP (R129). -/
def execExgXSP (s : State) : Result := .next ((s.setX s.sp).setSP s.x)

/-- EXG Y,SP (R129). -/
def execExgYSP (s : State) : Result := .next ((s.setY s.sp).setSP s.y)


end Sys2Proof.Machine
end

