-- ==== Sys2Proof/Machine/FlowControl.lean ====
section
/-! DEFINITION. The flow control instructions (42_flow_control.md) and the illegal opcodes
(60_exceptions.md R242).  PC is already past the instruction (00_scope.md R13). -/

namespace Sys2Proof.Machine

/-- JMP (R131): EA itself is the target (30_encoding.md R90). -/
def execJmp (m : MemMode) (s : State) : Result := .next (s.setPC (effectiveAddress m s))

/-- JSR (R132): the target is computed before the return address is pushed. -/
def execJsr (m : MemMode) (s : State) : Result := .next ((push8 s s.pc).setPC (effectiveAddress m s))

/-- BRA (R133). -/
def execBra (n : Byte) (s : State) : Result := .next (branchIf true n s)

/-- BSR (R134): the return address is the base of the offset. -/
def execBsr (n : Byte) (s : State) : Result := .next ((push8 s s.pc).setPC (s.pc + n))

/-- BMI (R136). -/
def execBmi (n : Byte) (s : State) : Result := .next (branchIf (condMI s.cc) n s)

/-- BPL (R137). -/
def execBpl (n : Byte) (s : State) : Result := .next (branchIf (condPL s.cc) n s)

/-- BEQ (R138). -/
def execBeq (n : Byte) (s : State) : Result := .next (branchIf (condEQ s.cc) n s)

/-- BNE (R139). -/
def execBne (n : Byte) (s : State) : Result := .next (branchIf (condNE s.cc) n s)

/-- BVS (R140). -/
def execBvs (n : Byte) (s : State) : Result := .next (branchIf (condVS s.cc) n s)

/-- BVC (R141). -/
def execBvc (n : Byte) (s : State) : Result := .next (branchIf (condVC s.cc) n s)

/-- BCS (R142). -/
def execBcs (n : Byte) (s : State) : Result := .next (branchIf (condCS s.cc) n s)

/-- BCC (R143). -/
def execBcc (n : Byte) (s : State) : Result := .next (branchIf (condCC s.cc) n s)

/-- BHI (R144). -/
def execBhi (n : Byte) (s : State) : Result := .next (branchIf (condHI s.cc) n s)

/-- BLS (R145). -/
def execBls (n : Byte) (s : State) : Result := .next (branchIf (condLS s.cc) n s)

/-- BGT (R146). -/
def execBgt (n : Byte) (s : State) : Result := .next (branchIf (condGT s.cc) n s)

/-- BGE (R147). -/
def execBge (n : Byte) (s : State) : Result := .next (branchIf (condGE s.cc) n s)

/-- BLE (R148). -/
def execBle (n : Byte) (s : State) : Result := .next (branchIf (condLE s.cc) n s)

/-- BLT (R149). -/
def execBlt (n : Byte) (s : State) : Result := .next (branchIf (condLT s.cc) n s)

/-- RTS (R150). -/
def execRts (s : State) : Result := .next ((pull8 s).2.setPC (pull8 s).1)

/-- RTI (R151, 60_exceptions.md R249). -/
def execRti (s : State) : Result := .next (returnFromException s)

/-- An illegal opcode (60_exceptions.md R242, R244): it takes the trap and has no other effect.
Which of the six opcodes it is makes no difference (U1). -/
def execIllegal (_opcode : Byte) (s : State) : Result := .next (trapEntry s)


end Sys2Proof.Machine
end

