-- ==== Sys2Proof/Machine/LoadStore.lean ====
section
/-! DEFINITION. The load, store and load-effective-address instructions (40_load_store.md). -/

namespace Sys2Proof.Machine

/-- LDA (R111). -/
def execLda (o : Operand) (s : State) : Result := .next (loadInto State.setA o s)

/-- LDX (R112). -/
def execLdx (o : Operand) (s : State) : Result := .next (loadInto State.setX o s)

/-- LDY (R113). -/
def execLdy (o : Operand) (s : State) : Result := .next (loadInto State.setY o s)

/-- LDSP (R114). -/
def execLdsp (o : Operand) (s : State) : Result := .next (loadInto State.setSP o s)

/-- LEAX (R115): no access at EA, no flag. -/
def execLeax (m : MemMode) (s : State) : Result := .next (s.setX (effectiveAddress m s))

/-- LEAY (R116). -/
def execLeay (m : MemMode) (s : State) : Result := .next (s.setY (effectiveAddress m s))

/-- LEASP (R117). -/
def execLeasp (m : MemMode) (s : State) : Result := .next (s.setSP (effectiveAddress m s))

/-- STA (R118): no flag. -/
def execSta (m : MemMode) (s : State) : Result := .next (writeMem m s.a s)

/-- STX (R119). -/
def execStx (m : MemMode) (s : State) : Result := .next (writeMem m s.x s)

/-- STY (R120). -/
def execSty (m : MemMode) (s : State) : Result := .next (writeMem m s.y s)

/-- STSP (R121). -/
def execStsp (m : MemMode) (s : State) : Result := .next (writeMem m s.sp s)


end Sys2Proof.Machine
end

