-- ==== Sys2Proof/Machine/Logic.lean ====
section
/-! DEFINITION. The logic instructions (45_logic.md). -/

namespace Sys2Proof.Machine

/-- ANDA (R185). -/
def execAnda (o : Operand) (s : State) : Result := .next (computeIntoA computeAnd o s)

/-- ORA (R186). -/
def execOra (o : Operand) (s : State) : Result := .next (computeIntoA computeOr o s)

/-- ANDCC (R187): bits 7 to 5 of the data have no effect. -/
def execAndcc (n : Byte) (s : State) : Result := .next (s.setCC (CC.ofByte (s.cc.toByte &&& n)))

/-- ORCC (R188): bits 7 to 5 of the data have no effect. -/
def execOrcc (n : Byte) (s : State) : Result := .next (s.setCC (CC.ofByte (s.cc.toByte ||| n)))

/-- EORA (R189). -/
def execEora (o : Operand) (s : State) : Result := .next (computeIntoA computeEor o s)

/-- COMA (R190). -/
def execComa (s : State) : Result := .next (modifyA computeCom s)

/-- COM (R191). -/
def execCom (m : MemMode) (s : State) : Result := .next (modifyMem computeCom m s)


end Sys2Proof.Machine
end

