-- ==== Sys2Proof/Machine/Shift.lean ====
section
/-! DEFINITION. The shift and rotate instructions (46_shift_rotate.md). -/

namespace Sys2Proof.Machine

/-- ASRA (R196). -/
def execAsra (s : State) : Result := .next (modifyA computeAsr s)

/-- ASR (R197). -/
def execAsr (m : MemMode) (s : State) : Result := .next (modifyMem computeAsr m s)

/-- LSLA, also written ASLA (R198). -/
def execLsla (s : State) : Result := .next (modifyA computeLsl s)

/-- LSL, also written ASL (R199). -/
def execLsl (m : MemMode) (s : State) : Result := .next (modifyMem computeLsl m s)

/-- LSRA (R200). -/
def execLsra (s : State) : Result := .next (modifyA computeLsr s)

/-- LSR (R201). -/
def execLsr (m : MemMode) (s : State) : Result := .next (modifyMem computeLsr m s)

/-- ROLA (R202). -/
def execRola (s : State) : Result := .next (modifyA computeRol s)

/-- ROL (R203). -/
def execRol (m : MemMode) (s : State) : Result := .next (modifyMem computeRol m s)

/-- RORA (R204). -/
def execRora (s : State) : Result := .next (modifyA computeRor s)

/-- ROR (R205). -/
def execRor (m : MemMode) (s : State) : Result := .next (modifyMem computeRor m s)


end Sys2Proof.Machine
end

