-- ==== Sys2Proof/Machine/Stack.lean ====
section
/-! DEFINITION. The stack instructions and NOP (47_stack_misc.md). -/

namespace Sys2Proof.Machine

/-- PSHA (R210). -/
def execPsha (s : State) : Result := .next (push8 s s.a)

/-- PSHX (R211). -/
def execPshx (s : State) : Result := .next (push8 s s.x)

/-- PSHY (R212). -/
def execPshy (s : State) : Result := .next (push8 s s.y)

/-- PSHCC (R213). -/
def execPshcc (s : State) : Result := .next (push8 s s.cc.toByte)

/-- PULA (R214): no flag. -/
def execPula (s : State) : Result := .next ((pull8 s).2.setA (pull8 s).1)

/-- PULX (R215): no flag. -/
def execPulx (s : State) : Result := .next ((pull8 s).2.setX (pull8 s).1)

/-- PULY (R216): no flag. -/
def execPuly (s : State) : Result := .next ((pull8 s).2.setY (pull8 s).1)

/-- PULCC (R217): bits 7 to 5 of the byte are discarded. -/
def execPulcc (s : State) : Result := .next ((pull8 s).2.setCC (CC.ofByte (pull8 s).1))

/-- NOP (R219). -/
def execNop (s : State) : Result := .next s


end Sys2Proof.Machine
end

