-- ==== Sys2Proof/Machine/Dispatch.lean ====
section
/-! DEFINITION. One arm for each instruction, each one call of its meaning.  PC is already past the
instruction when exec runs (00_scope.md R13). -/

namespace Sys2Proof.Machine

def exec (i : Instr) (s : State) : Host.Outcome State Fault Refusal :=
  match i with
  | .nop => Sys2Proof.Machine.execNop s
  | .andcc n => Sys2Proof.Machine.execAndcc n s
  | .orcc n => Sys2Proof.Machine.execOrcc n s
  | .illegal opcode => Sys2Proof.Machine.execIllegal opcode s
  | .clra => Sys2Proof.Machine.execClra s
  | .nega => Sys2Proof.Machine.execNega s
  | .inca => Sys2Proof.Machine.execInca s
  | .deca => Sys2Proof.Machine.execDeca s
  | .tsta => Sys2Proof.Machine.execTsta s
  | .coma => Sys2Proof.Machine.execComa s
  | .lsla => Sys2Proof.Machine.execLsla s
  | .lsra => Sys2Proof.Machine.execLsra s
  | .rola => Sys2Proof.Machine.execRola s
  | .rora => Sys2Proof.Machine.execRora s
  | .asra => Sys2Proof.Machine.execAsra s
  | .psha => Sys2Proof.Machine.execPsha s
  | .pshx => Sys2Proof.Machine.execPshx s
  | .pshy => Sys2Proof.Machine.execPshy s
  | .pshcc => Sys2Proof.Machine.execPshcc s
  | .pula => Sys2Proof.Machine.execPula s
  | .pulx => Sys2Proof.Machine.execPulx s
  | .puly => Sys2Proof.Machine.execPuly s
  | .pulcc => Sys2Proof.Machine.execPulcc s
  | .tfrACC => Sys2Proof.Machine.execTfrACC s
  | .tfrCCA => Sys2Proof.Machine.execTfrCCA s
  | .tfrXY => Sys2Proof.Machine.execTfrXY s
  | .tfrYX => Sys2Proof.Machine.execTfrYX s
  | .tfrXSP => Sys2Proof.Machine.execTfrXSP s
  | .tfrSPX => Sys2Proof.Machine.execTfrSPX s
  | .tfrYSP => Sys2Proof.Machine.execTfrYSP s
  | .tfrSPY => Sys2Proof.Machine.execTfrSPY s
  | .bsr n => Sys2Proof.Machine.execBsr n s
  | .bra n => Sys2Proof.Machine.execBra n s
  | .bmi n => Sys2Proof.Machine.execBmi n s
  | .bpl n => Sys2Proof.Machine.execBpl n s
  | .beq n => Sys2Proof.Machine.execBeq n s
  | .bne n => Sys2Proof.Machine.execBne n s
  | .bvs n => Sys2Proof.Machine.execBvs n s
  | .bvc n => Sys2Proof.Machine.execBvc n s
  | .bcs n => Sys2Proof.Machine.execBcs n s
  | .bcc n => Sys2Proof.Machine.execBcc n s
  | .bhi n => Sys2Proof.Machine.execBhi n s
  | .bls n => Sys2Proof.Machine.execBls n s
  | .bgt n => Sys2Proof.Machine.execBgt n s
  | .bge n => Sys2Proof.Machine.execBge n s
  | .ble n => Sys2Proof.Machine.execBle n s
  | .blt n => Sys2Proof.Machine.execBlt n s
  | .stx m => Sys2Proof.Machine.execStx m s
  | .sty m => Sys2Proof.Machine.execSty m s
  | .stsp m => Sys2Proof.Machine.execStsp m s
  | .jmp m => Sys2Proof.Machine.execJmp m s
  | .jsr m => Sys2Proof.Machine.execJsr m s
  | .clr m => Sys2Proof.Machine.execClr m s
  | .neg m => Sys2Proof.Machine.execNeg m s
  | .inc m => Sys2Proof.Machine.execInc m s
  | .dec m => Sys2Proof.Machine.execDec m s
  | .tst m => Sys2Proof.Machine.execTst m s
  | .com m => Sys2Proof.Machine.execCom m s
  | .lsl m => Sys2Proof.Machine.execLsl m s
  | .lsr m => Sys2Proof.Machine.execLsr m s
  | .rol m => Sys2Proof.Machine.execRol m s
  | .ror m => Sys2Proof.Machine.execRor m s
  | .asr m => Sys2Proof.Machine.execAsr m s
  | .rts => Sys2Proof.Machine.execRts s
  | .rti => Sys2Proof.Machine.execRti s
  | .ldx o => Sys2Proof.Machine.execLdx o s
  | .ldy o => Sys2Proof.Machine.execLdy o s
  | .ldsp o => Sys2Proof.Machine.execLdsp o s
  | .sbca o => Sys2Proof.Machine.execSbca o s
  | .suba o => Sys2Proof.Machine.execSuba o s
  | .adca o => Sys2Proof.Machine.execAdca o s
  | .adda o => Sys2Proof.Machine.execAdda o s
  | .cmpa o => Sys2Proof.Machine.execCmpa o s
  | .bita o => Sys2Proof.Machine.execBita o s
  | .anda o => Sys2Proof.Machine.execAnda o s
  | .ora o => Sys2Proof.Machine.execOra o s
  | .eora o => Sys2Proof.Machine.execEora o s
  | .cmpx o => Sys2Proof.Machine.execCmpx o s
  | .cmpy o => Sys2Proof.Machine.execCmpy o s
  | .cmpsp o => Sys2Proof.Machine.execCmpsp o s
  | .exgACC => Sys2Proof.Machine.execExgACC s
  | .exgXY => Sys2Proof.Machine.execExgXY s
  | .leasp m => Sys2Proof.Machine.execLeasp m s
  | .exgXSP => Sys2Proof.Machine.execExgXSP s
  | .leax m => Sys2Proof.Machine.execLeax m s
  | .leay m => Sys2Proof.Machine.execLeay m s
  | .exgYSP => Sys2Proof.Machine.execExgYSP s
  | .sta m => Sys2Proof.Machine.execSta m s
  | .lda o => Sys2Proof.Machine.execLda o s

end Sys2Proof.Machine
end

