-- ==== Sys2Proof/WellFormed.lean ====
section
/-! DEFINITION. Which instruction has which addressing mode (30_encoding.md R96: exactly what the
opcode map lists; no other combination has an encoding), and which opcodes are illegal (R81). -/

namespace Sys2Proof

/-- The six memory modes of STX, STY, STSP and of the memory forms of CLR NEG INC DEC TST COM and the
shifts (R96): ab, ns, nx, ax, ny, ay. -/
def MemMode.isPlain : MemMode → Bool
  | .ab _ | .ns _ | .nx _ | .ny _ | .ax | .ay => true
  | _ => false

/-- The five modes of JMP and JSR: the plain ones without n,SP (R96). -/
def MemMode.isJump : MemMode → Bool
  | .ab _ | .nx _ | .ny _ | .ax | .ay => true
  | _ => false

/-- The two modes of LEAX (R115). -/
def MemMode.isLeax : MemMode → Bool
  | .nx _ | .ns _ => true
  | _ => false

/-- The two modes of LEAY (R116). -/
def MemMode.isLeay : MemMode → Bool
  | .ny _ | .ns _ => true
  | _ => false

/-- The three modes of LEASP (R117). -/
def MemMode.isLeasp : MemMode → Bool
  | .ns _ | .nx _ | .ny _ => true
  | _ => false

/-- im, ab, ns, nx, ny: the two-operand instructions on A, and LDX, LDY, LDSP (R96). -/
def Operand.isBinary : Operand → Bool
  | .im _ | .mem (.ab _) | .mem (.ns _) | .mem (.nx _) | .mem (.ny _) => true
  | _ => false

/-- im, ab, ns: CMPX and CMPY (R96). -/
def Operand.isCmpXY : Operand → Bool
  | .im _ | .mem (.ab _) | .mem (.ns _) => true
  | _ => false

/-- im, ab: CMPSP (R96). -/
def Operand.isCmpSP : Operand → Bool
  | .im _ | .mem (.ab _) => true
  | _ => false

/-- The six blank cells of the opcode map (R79, R81). -/
def illegalOpcodes : List Byte := [0x03, 0x04, 0xDF, 0xE0, 0xEF, 0xFF]

/-- The instruction has an encoding (R96): its mode is one the opcode map lists for it. -/
def Instr.wf : Instr → Bool
  | .illegal op => illegalOpcodes.contains op
  | .stx m | .sty m | .stsp m => m.isPlain
  | .clr m | .neg m | .inc m | .dec m | .tst m | .com m => m.isPlain
  | .lsl m | .lsr m | .rol m | .ror m | .asr m => m.isPlain
  | .jmp m | .jsr m => m.isJump
  | .leax m => m.isLeax
  | .leay m => m.isLeay
  | .leasp m => m.isLeasp
  | .ldx o | .ldy o | .ldsp o => o.isBinary
  | .sbca o | .suba o | .adca o | .adda o => o.isBinary
  | .cmpa o | .bita o | .anda o | .ora o | .eora o => o.isBinary
  | .cmpx o | .cmpy o => o.isCmpXY
  | .cmpsp o => o.isCmpSP
  | .nop | .andcc _ | .orcc _ | .clra | .nega | .inca | .deca | .tsta | .coma | .lsla | .lsra
  | .rola | .rora | .asra | .psha | .pshx | .pshy | .pshcc | .pula | .pulx | .puly | .pulcc
  | .tfrACC | .tfrCCA | .tfrXY | .tfrYX | .tfrXSP | .tfrSPX | .tfrYSP | .tfrSPY
  | .bsr _ | .bra _ | .bmi _ | .bpl _ | .beq _ | .bne _ | .bvs _ | .bvc _ | .bcs _ | .bcc _
  | .bhi _ | .bls _ | .bgt _ | .bge _ | .ble _ | .blt _ | .rts | .rti
  | .exgACC | .exgXY | .exgXSP | .exgYSP | .sta _ | .lda _ => true

end Sys2Proof
end

