-- ==== Sys2Proof/Decode.lean ====
section
/-! DEFINITION. Decoding and encoding (30_encoding.md R75 to R81).  The opcode map is one list of 256
rows, column by column as R80 prints it: the column is the high nibble of the opcode and the row the
low nibble (R78). -/

namespace Sys2Proof

/-- A cell of the opcode map: a one-byte instruction (format F1), or a two-byte instruction, which its
operand byte completes (format F2) (R75). -/
inductive OpRow where
  | one (i : Instr)
  | two (f : Byte → Instr)

/-- The rows of a memory instruction in the modes ab, ns, nx, ny (two bytes) and ax, ay (one byte) (R76). -/
def rowAb (mk : MemMode → Instr) : OpRow := .two fun n => mk (.ab n)
def rowNs (mk : MemMode → Instr) : OpRow := .two fun n => mk (.ns n)
def rowNx (mk : MemMode → Instr) : OpRow := .two fun n => mk (.nx n)
def rowNy (mk : MemMode → Instr) : OpRow := .two fun n => mk (.ny n)
def rowAx (mk : MemMode → Instr) : OpRow := .one (mk .ax)
def rowAy (mk : MemMode → Instr) : OpRow := .one (mk .ay)

/-- The rows of a source-operand instruction in the modes im and memory. -/
def rowIm (mk : Operand → Instr) : OpRow := .two fun n => mk (.im n)
def rowMem (row : (MemMode → Instr) → OpRow) (mk : Operand → Instr) : OpRow :=
  row fun m => mk (.mem m)

/-- A blank cell: the opcode traps and is one byte long (R79, R81, 60_exceptions.md R242). -/
def blankCell (opcode : Byte) : OpRow := .one (.illegal opcode)

/-- Column 0: the inherent operations on A, NOP, ANDCC, ORCC. -/
def column0 : List OpRow :=
  [.one .nop, .two .andcc, .two .orcc, blankCell 0x03, blankCell 0x04, .one .clra, .one .nega,
   .one .inca, .one .deca, .one .tsta, .one .coma, .one .lsla, .one .lsra, .one .rola, .one .rora,
   .one .asra]

/-- Column 1: PSH, PUL and TFR. -/
def column1 : List OpRow :=
  [.one .psha, .one .pshx, .one .pshy, .one .pshcc, .one .pula, .one .pulx, .one .puly, .one .pulcc,
   .one .tfrACC, .one .tfrCCA, .one .tfrXY, .one .tfrYX, .one .tfrXSP, .one .tfrSPX, .one .tfrYSP,
   .one .tfrSPY]

/-- Column 2: the relative branches. -/
def column2 : List OpRow :=
  [.two .bsr, .two .bra, .two .bmi, .two .bpl, .two .beq, .two .bne, .two .bvs, .two .bvc,
   .two .bcs, .two .bcc, .two .bhi, .two .bls, .two .bgt, .two .bge, .two .ble, .two .blt]

/-- Columns 3 to 8: one row pattern in one mode a column; cells 3 and 4 are JMP and JSR but in column 4,
which holds RTS and RTI (R78). -/
def memColumn (row : (MemMode → Instr) → OpRow) (cell3 cell4 : OpRow) : List OpRow :=
  [row .stx, row .sty, row .stsp, cell3, cell4, row .clr, row .neg, row .inc, row .dec, row .tst,
   row .com, row .lsl, row .lsr, row .rol, row .ror, row .asr]

/-- Columns 9 to D: one row pattern in one mode a column, with four cells of their own (R78). -/
def sourceColumn (row : (Operand → Instr) → OpRow) (cellC cellD cellE cellF : OpRow) : List OpRow :=
  [row .ldx, row .ldy, row .ldsp, row .sbca, row .suba, row .adca, row .adda, row .cmpa, row .bita,
   row .anda, row .ora, row .eora, cellC, cellD, cellE, cellF]

/-- Column E: STA, the row selecting the mode. -/
def columnE : List OpRow :=
  [blankCell 0xE0, rowAb .sta, rowNs .sta, rowNx .sta, rowAx .sta, .one (.sta .xPostInc),
   .one (.sta .xPostDec), .one (.sta .xPreInc), .one (.sta .xPreDec), rowNy .sta, rowAy .sta,
   .one (.sta .yPostInc), .one (.sta .yPostDec), .one (.sta .yPreInc), .one (.sta .yPreDec),
   blankCell 0xEF]

/-- Column F: LDA, the row selecting the mode. -/
def columnF : List OpRow :=
  [rowIm .lda, rowMem rowAb .lda, rowMem rowNs .lda, rowMem rowNx .lda, rowMem rowAx .lda,
   .one (.lda (.mem .xPostInc)), .one (.lda (.mem .xPostDec)), .one (.lda (.mem .xPreInc)),
   .one (.lda (.mem .xPreDec)), rowMem rowNy .lda, rowMem rowAy .lda, .one (.lda (.mem .yPostInc)),
   .one (.lda (.mem .yPostDec)), .one (.lda (.mem .yPreInc)), .one (.lda (.mem .yPreDec)),
   blankCell 0xFF]

/-- The opcode map of R80, opcode $00 first. -/
def opcodeMap : List OpRow :=
  column0 ++ column1 ++ column2
    ++ memColumn rowAb (rowAb .jmp) (rowAb .jsr)
    ++ memColumn rowNs (.one .rts) (.one .rti)
    ++ memColumn rowNx (rowNx .jmp) (rowNx .jsr)
    ++ memColumn rowAx (rowAx .jmp) (rowAx .jsr)
    ++ memColumn rowNy (rowNy .jmp) (rowNy .jsr)
    ++ memColumn rowAy (rowAy .jmp) (rowAy .jsr)
    ++ sourceColumn rowIm (rowIm .cmpx) (rowIm .cmpy) (rowIm .cmpsp) (.one .exgACC)
    ++ sourceColumn (rowMem rowAb) (rowMem rowAb .cmpx) (rowMem rowAb .cmpy) (rowMem rowAb .cmpsp)
        (.one .exgXY)
    ++ sourceColumn (rowMem rowNs) (rowMem rowNs .cmpx) (rowMem rowNs .cmpy) (rowNs .leasp)
        (.one .exgXSP)
    ++ sourceColumn (rowMem rowNx) (rowNx .leax) (rowNy .leay) (rowNx .leasp) (.one .exgYSP)
    ++ sourceColumn (rowMem rowNy) (rowNs .leax) (rowNs .leay) (rowNy .leasp) (blankCell 0xDF)
    ++ columnE ++ columnF

/-- The row of an opcode: the whole byte is decoded (R75). -/
def opcodeRow (opcode : Byte) : OpRow := opcodeMap.getD opcode.toNat (blankCell opcode)

/-- The opcode's mode has an operand byte (R76): the length depends on the opcode byte alone. -/
def OpRow.hasOperand : OpRow → Bool
  | .one _ => false
  | .two _ => true

/-- The instruction of a row; a one-byte row takes no operand. -/
def OpRow.instr : OpRow → Byte → Instr
  | .one i, _ => i
  | .two f, n => f n

/-- Why a string of bytes is no instruction: every opcode value decodes (R81), so only for want of bytes. -/
inductive DecodeError where
  /-- There is no opcode byte. -/
  | noOpcodeByte
  /-- The opcode's mode has an operand byte and the string ends after the opcode. -/
  | noOperandByte (opcode : Byte)
deriving DecidableEq, Repr

/-- The instruction at the front of a string of bytes, with the bytes after it. -/
def decode : List Byte → Except DecodeError (Instr × List Byte)
  | [] => .error .noOpcodeByte
  | op :: rest =>
    match opcodeRow op, rest with
    | .one i, rest => .ok (i, rest)
    | .two _, [] => .error (.noOperandByte op)
    | .two f, n :: rest' => .ok (f n, rest')

/-- The opcode column of a plain memory mode (columns 3 to 8 of R80), as the opcode of its row 0. -/
def MemMode.memColumnOpcode : MemMode → Byte
  | .ab _ => 0x30
  | .ns _ => 0x40
  | .nx _ => 0x50
  | .ax => 0x60
  | .ny _ => 0x70
  | .ay => 0x80
  | _ => 0x00

/-- The opcode column of a source operand (columns 9 to D of R80), as the opcode of its row 0. -/
def Operand.sourceColumnOpcode : Operand → Byte
  | .im _ => 0x90
  | .mem (.ab _) => 0xA0
  | .mem (.ns _) => 0xB0
  | .mem (.nx _) => 0xC0
  | .mem (.ny _) => 0xD0
  | _ => 0x00

/-- The row of a mode in columns E and F (R78). -/
def MemMode.rowEF : MemMode → Byte
  | .ab _ => 0x1
  | .ns _ => 0x2
  | .nx _ => 0x3
  | .ax => 0x4
  | .xPostInc => 0x5
  | .xPostDec => 0x6
  | .xPreInc => 0x7
  | .xPreDec => 0x8
  | .ny _ => 0x9
  | .ay => 0xA
  | .yPostInc => 0xB
  | .yPostDec => 0xC
  | .yPreInc => 0xD
  | .yPreDec => 0xE

def Operand.rowF : Operand → Byte
  | .im _ => 0x0
  | .mem m => m.rowEF

/-- The operand byte of a mode, where it has one (R76, R77). -/
def MemMode.operandBytes : MemMode → List Byte
  | .ab n | .ns n | .nx n | .ny n => [n]
  | _ => []

def Operand.operandBytes : Operand → List Byte
  | .im n => [n]
  | .mem m => m.operandBytes

/-- The opcode byte of a well-formed instruction (R80, and the OP column of its own rule). -/
def Instr.opcode : Instr → Byte
  | .nop => 0x00
  | .andcc _ => 0x01
  | .orcc _ => 0x02
  | .illegal op => op
  | .clra => 0x05
  | .nega => 0x06
  | .inca => 0x07
  | .deca => 0x08
  | .tsta => 0x09
  | .coma => 0x0A
  | .lsla => 0x0B
  | .lsra => 0x0C
  | .rola => 0x0D
  | .rora => 0x0E
  | .asra => 0x0F
  | .psha => 0x10
  | .pshx => 0x11
  | .pshy => 0x12
  | .pshcc => 0x13
  | .pula => 0x14
  | .pulx => 0x15
  | .puly => 0x16
  | .pulcc => 0x17
  | .tfrACC => 0x18
  | .tfrCCA => 0x19
  | .tfrXY => 0x1A
  | .tfrYX => 0x1B
  | .tfrXSP => 0x1C
  | .tfrSPX => 0x1D
  | .tfrYSP => 0x1E
  | .tfrSPY => 0x1F
  | .bsr _ => 0x20
  | .bra _ => 0x21
  | .bmi _ => 0x22
  | .bpl _ => 0x23
  | .beq _ => 0x24
  | .bne _ => 0x25
  | .bvs _ => 0x26
  | .bvc _ => 0x27
  | .bcs _ => 0x28
  | .bcc _ => 0x29
  | .bhi _ => 0x2A
  | .bls _ => 0x2B
  | .bgt _ => 0x2C
  | .bge _ => 0x2D
  | .ble _ => 0x2E
  | .blt _ => 0x2F
  | .stx m => m.memColumnOpcode
  | .sty m => m.memColumnOpcode + 0x1
  | .stsp m => m.memColumnOpcode + 0x2
  | .jmp m => m.memColumnOpcode + 0x3
  | .jsr m => m.memColumnOpcode + 0x4
  | .clr m => m.memColumnOpcode + 0x5
  | .neg m => m.memColumnOpcode + 0x6
  | .inc m => m.memColumnOpcode + 0x7
  | .dec m => m.memColumnOpcode + 0x8
  | .tst m => m.memColumnOpcode + 0x9
  | .com m => m.memColumnOpcode + 0xA
  | .lsl m => m.memColumnOpcode + 0xB
  | .lsr m => m.memColumnOpcode + 0xC
  | .rol m => m.memColumnOpcode + 0xD
  | .ror m => m.memColumnOpcode + 0xE
  | .asr m => m.memColumnOpcode + 0xF
  | .rts => 0x43
  | .rti => 0x44
  | .ldx o => o.sourceColumnOpcode
  | .ldy o => o.sourceColumnOpcode + 0x1
  | .ldsp o => o.sourceColumnOpcode + 0x2
  | .sbca o => o.sourceColumnOpcode + 0x3
  | .suba o => o.sourceColumnOpcode + 0x4
  | .adca o => o.sourceColumnOpcode + 0x5
  | .adda o => o.sourceColumnOpcode + 0x6
  | .cmpa o => o.sourceColumnOpcode + 0x7
  | .bita o => o.sourceColumnOpcode + 0x8
  | .anda o => o.sourceColumnOpcode + 0x9
  | .ora o => o.sourceColumnOpcode + 0xA
  | .eora o => o.sourceColumnOpcode + 0xB
  | .cmpx o => o.sourceColumnOpcode + 0xC
  | .cmpy o => o.sourceColumnOpcode + 0xD
  | .cmpsp o => o.sourceColumnOpcode + 0xE
  | .exgACC => 0x9F
  | .exgXY => 0xAF
  | .leasp (.ns _) => 0xBE
  | .leasp (.nx _) => 0xCE
  | .leasp _ => 0xDE
  | .exgXSP => 0xBF
  | .leax (.nx _) => 0xCC
  | .leax _ => 0xDC
  | .leay (.ny _) => 0xCD
  | .leay _ => 0xDD
  | .exgYSP => 0xCF
  | .sta m => 0xE0 + m.rowEF
  | .lda o => 0xF0 + o.rowF

/-- The operand byte of an instruction, where it has one. -/
def Instr.operandBytes : Instr → List Byte
  | .andcc n | .orcc n => [n]
  | .bsr n | .bra n | .bmi n | .bpl n | .beq n | .bne n | .bvs n | .bvc n | .bcs n | .bcc n
  | .bhi n | .bls n | .bgt n | .bge n | .ble n | .blt n => [n]
  | .stx m | .sty m | .stsp m | .jmp m | .jsr m | .clr m | .neg m | .inc m | .dec m | .tst m
  | .com m | .lsl m | .lsr m | .rol m | .ror m | .asr m | .leasp m | .leax m | .leay m
  | .sta m => m.operandBytes
  | .ldx o | .ldy o | .ldsp o | .sbca o | .suba o | .adca o | .adda o | .cmpa o | .bita o
  | .anda o | .ora o | .eora o | .cmpx o | .cmpy o | .cmpsp o | .lda o => o.operandBytes
  | .nop | .illegal _ | .clra | .nega | .inca | .deca | .tsta | .coma | .lsla | .lsra | .rola
  | .rora | .asra | .psha | .pshx | .pshy | .pshcc | .pula | .pulx | .puly | .pulcc | .tfrACC
  | .tfrCCA | .tfrXY | .tfrYX | .tfrXSP | .tfrSPX | .tfrYSP | .tfrSPY | .rts | .rti | .exgACC
  | .exgXY | .exgXSP | .exgYSP => []

/-- The bytes of a well-formed instruction, opcode first (R58, R75); an instruction that has no encoding
has no bytes. -/
def encode (i : Instr) : List Byte := if i.wf then i.opcode :: i.operandBytes else []

/-- The bytes of a table word: bit 0 of `w` is the least significant bit of the opcode byte and the
operand byte is bits 15..8; every bit at or above `nbits` is 0. -/
def tableWordBytes (nbits w : Nat) : List Byte :=
  [BitVec.ofNat 8 (w % 2 ^ nbits), BitVec.ofNat 8 (w % 2 ^ nbits / 256)]

/-- The instruction the decoder reads from a table word. -/
def decodeTableWord (nbits w : Nat) : Option Instr :=
  match decode (tableWordBytes nbits w) with
  | .ok (i, _) => some i
  | .error _ => none

end Sys2Proof
end

