-- ==== Sys2Proof/Machine/Fetch.lean ====
section
/-! DEFINITION. Fetching an instruction (00_scope.md R13, R20), and placing one where the next fetch finds
it (log entries 11 and 19). -/

namespace Sys2Proof.Machine

/-- The fetches at the start of an instruction: the opcode byte, then the operand byte if and only if
the opcode's mode has one (R13, 60_exceptions.md R242).  PC is left past the instruction. -/
def fetchInstr (s : State) : Instr × State :=
  let op := fetch8 s
  match opcodeRow op.1 with
  | .one i => (i, op.2)
  | .two f =>
    let n := fetch8 op.2
    (f n.1, n.2)

/-- A byte put where a read of the address finds it: into the cell, or before the bytes that the
environment presents at a port. -/
def State.placeByte (s : State) (a b : Byte) : State :=
  match portAt a with
  | some p => s.setPort p { s.port p with pending := b :: (s.port p).pending }
  | none => s.setCell a b

/-- The input lines with the next boundary made quiet. -/
def quietNext : List Boundary → List Boundary
  | [] => []
  | _ :: rest => Boundary.quiet :: rest

/-- The bytes of an instruction put at PC, as a loader puts a program image (20_memory.md R52), and the
next boundary made quiet. -/
def State.placeInstr (s : State) (bytes : List Byte) : State :=
  { (bytes.zipIdx.foldr (fun b t => t.placeByte (s.pc + BitVec.ofNat 8 b.2) b.1) s) with
    lines := quietNext s.lines }

end Sys2Proof.Machine
end

