-- ==== Sys2Proof/Machine/Step.lean ====
section
/-! DEFINITION. One step (00_scope.md R20): a reset, an interrupt entry, or one whole instruction (a trap
entry is what an illegal opcode's meaning does). -/

namespace Sys2Proof.Machine

/-- One step.  Reset comes first, then the interrupt, then the fetch (60_exceptions.md R247). -/
def step (s : State) : Host.Outcome State Fault Refusal :=
  match s.boundary.reset with
  | .insideInstruction => .fault .resetInsideInstruction
  | .atBoundary => .next (resetEntry s.passBoundary)
  | .idle =>
    if s.interruptTaken then .next (irqEntry s.passBoundary)
    else exec (fetchInstr s.passBoundary).1 (fetchInstr s.passBoundary).2

/-- The instruction of a table word, stored where the next step fetches. -/
def State.withFetchWord (s : State) (nbits w : Nat) : State := s.placeInstr (tableWordBytes nbits w)

end Sys2Proof.Machine
end

