-- ==== Sys2Proof/Machine/Alu.lean ====
section
/-! DEFINITION. The ALU and the selectors of the control unit (49_alu_control.md R226 to R238), as plain
functions.  No meaning is defined by them (R225); statements relate the two (R231). -/

namespace Sys2Proof.Machine

/-- The ALU's outputs U, N, Z, V, C (R226). -/
structure AluOut where
  u : Byte
  n : Bool
  z : Bool
  v : Bool
  c : Bool
deriving DecidableEq, Repr

/-- U with N = u7 and Z by note (1) (R227, R228). -/
def aluOut (u : Byte) (v c : Bool) : AluOut := { u := u, n := u.msb, z := u == 0, v := v, c := c }

/-- An adder row: notes (2) and (3) (R228). -/
def aluAdd (d e : Byte) (cin : Bool) : AluOut :=
  aluOut (d + e + (BitVec.ofBool cin).setWidth 8)
    (outsideSigned (d.toInt + e.toInt + cin.toNat)) (decide (256 ≤ d.toNat + e.toNat + cin.toNat))

/-- The function table (R230).  For the subtracting row 1100, C is the borrow (R227). -/
def alu (f : BitVec 4) (d e : Byte) (cin : Bool) : AluOut :=
  match f.toNat with
  | 0b0000 => aluOut 0x00 false false
  | 0b0001 => aluOut Config.irqVector false false
  | 0b0010 => aluOut Config.trapVector false false
  | 0b0011 => aluOut Config.resetVector false false
  | 0b0100 => aluOut e false false
  | 0b0101 => aluOut (~~~d + (BitVec.ofBool cin).setWidth 8) (d == 0x80) (d != 0)
  | 0b0110 => aluOut (d ||| e) false false
  | 0b0111 => aluOut (d &&& e) false false
  | 0b1000 => aluOut (d ^^^ e) false false
  | 0b1001 => aluAdd d 0x00 cin
  | 0b1010 => aluAdd d 0xFF false
  | 0b1011 => aluAdd d e cin
  | 0b1100 => { aluAdd d (~~~e) cin with c := !(aluAdd d (~~~e) cin).c }
  | 0b1101 => aluOut (shiftLeft d cin) (d.msb != (shiftLeft d cin).msb) d.msb
  | 0b1110 => aluOut (shiftRight d cin) (d.msb != (shiftRight d cin).msb) (d.getLsbD 0)
  | _ => aluOut (shiftRight d d.msb) false (d.getLsbD 0)

/-- The selector of C, V, Z or N (R235): 00 from the ALU, 01 from the bus, 10 cleared, 11 kept. -/
def selectFlag (g : BitVec 2) (fromAlu fromBus old : Bool) : Bool :=
  match g.toNat with
  | 0b00 => fromAlu
  | 0b01 => fromBus
  | 0b10 => false
  | _ => old

/-- The selector of I (R236): 01 from bus bit 4, 10 set, 00 and 11 kept. -/
def selectI (g : BitVec 2) (fromBus old : Bool) : Bool :=
  match g.toNat with
  | 0b01 => fromBus
  | 0b10 => true
  | _ => old

/-- The selector of Cin (R237). -/
def selectCin (g : BitVec 2) (c : Bool) : Bool :=
  match g.toNat with
  | 0b00 => false
  | 0b01 => true
  | 0b10 => c
  | _ => !c

/-- The selector of the address bus (R238), with the hidden registers T and TA as arguments
(10_state.md R39). -/
def selectAddress (g : BitVec 3) (s : State) (t ta : Byte) : Byte :=
  match g.toNat with
  | 0b000 => s.pc
  | 0b001 => s.sp + t
  | 0b010 => s.y + t
  | 0b011 => s.x + t
  | _ => ta

/-- A setting of the selectors g1 g0 (Cin), g3 g2 (C), g5 g4 (V), g7 g6 (Z), g9 g8 (N), g11 g10 (I). -/
structure Selectors where
  cin : BitVec 2
  c : BitVec 2
  v : BitVec 2
  z : BitVec 2
  n : BitVec 2
  i : BitVec 2
deriving DecidableEq, Repr

/-- One pass of data through the ALU: U, and CC as the selectors load it. -/
def aluPass (f : BitVec 4) (g : Selectors) (d e bus : Byte) (cc : CC) : Computed :=
  let o := alu f d e (selectCin g.cin cc.c)
  { val := o.u
    cc :=
      { i := selectI g.i (bus.getLsbD 4) cc.i
        n := selectFlag g.n o.n (bus.getLsbD 3) cc.n
        z := selectFlag g.z o.z (bus.getLsbD 2) cc.z
        v := selectFlag g.v o.v (bus.getLsbD 1) cc.v
        c := selectFlag g.c o.c (bus.getLsbD 0) cc.c } }

/-- All four flags from the ALU, with a Cin setting (R231). -/
def allFlags (cin : BitVec 2) : Selectors := { cin := cin, c := 0b00, v := 0b00, z := 0b00, n := 0b00, i := 0b00 }

/-- N, Z and V from the ALU, C kept (R231). -/
def keepC (cin : BitVec 2) : Selectors := { allFlags cin with c := 0b11 }

/-- N and Z from the ALU, V cleared, C kept (R231). -/
def clearV (cin : BitVec 2) : Selectors := { keepC cin with v := 0b10 }

/-- N and Z from the ALU, V and C cleared (R231, TST). -/
def clearVC (cin : BitVec 2) : Selectors := { clearV cin with c := 0b10 }

/-- All of CC from the bus (R235, R236). -/
def fromBus : Selectors := { cin := 0b00, c := 0b01, v := 0b01, z := 0b01, n := 0b01, i := 0b01 }

/-- All of CC kept but I, which is set (R236). -/
def setOnlyI : Selectors := { cin := 0b00, c := 0b11, v := 0b11, z := 0b11, n := 0b11, i := 0b10 }

end Sys2Proof.Machine
end

