-- ==== Sys2Proof/Machine/Assembler.lean ====
section
/-! DEFINITION. The assembler as far as the source gives it (30_encoding.md R77, R97 to R106): number
prefixes, the operand forms, the mnemonic synonyms and the five directives.  It works on lines that
are already parsed; what the source does not give is in log entries 17, 21, 22 and 23. -/

namespace Sys2Proof.Machine

/-- The addressing-mode abbreviations of the opcode map (R77). -/
inductive Form where
  | ih | im | ab | pc | ns | nx | ny | ax | ay
  | xPostInc | xPostDec | xPreInc | xPreDec | yPostInc | yPostDec | yPreInc | yPreDec
deriving DecidableEq, Repr

/-- The form has an operand byte (R76). -/
def Form.hasOperand : Form → Bool
  | .im | .ab | .pc | .ns | .nx | .ny => true
  | _ => false

def modeForm : MemMode → Form
  | .ab _ => .ab
  | .ns _ => .ns
  | .nx _ => .nx
  | .ny _ => .ny
  | .ax => .ax
  | .ay => .ay
  | .xPostInc => .xPostInc
  | .xPostDec => .xPostDec
  | .xPreInc => .xPreInc
  | .xPreDec => .xPreDec
  | .yPostInc => .yPostInc
  | .yPostDec => .yPostDec
  | .yPreInc => .yPreInc
  | .yPreDec => .yPreDec

def operandForm : Operand → Form
  | .im _ => .im
  | .mem m => modeForm m

/-- The addressing mode of an instruction (R80). -/
def instrForm : Instr → Form
  | .nop | .clra | .nega | .inca | .deca | .tsta | .coma | .lsla | .lsra | .rola | .rora | .asra
  | .psha | .pshx | .pshy | .pshcc | .pula | .pulx | .puly | .pulcc | .tfrACC | .tfrCCA | .tfrXY
  | .tfrYX | .tfrXSP | .tfrSPX | .tfrYSP | .tfrSPY | .rts | .rti | .exgACC | .exgXY | .exgXSP
  | .exgYSP | .illegal _ => .ih
  | .andcc _ | .orcc _ => .im
  | .bsr _ | .bra _ | .bmi _ | .bpl _ | .beq _ | .bne _ | .bvs _ | .bvc _ | .bcs _ | .bcc _
  | .bhi _ | .bls _ | .bgt _ | .bge _ | .ble _ | .blt _ => .pc
  | .stx m | .sty m | .stsp m | .jmp m | .jsr m | .clr m | .neg m | .inc m | .dec m | .tst m
  | .com m | .lsl m | .lsr m | .rol m | .ror m | .asr m | .leasp m | .leax m | .leay m | .sta m => modeForm m
  | .ldx o | .ldy o | .ldsp o | .sbca o | .suba o | .adca o | .adda o | .cmpa o | .bita o | .anda o
  | .ora o | .eora o | .cmpx o | .cmpy o | .cmpsp o | .lda o => operandForm o

/-- The mnemonic as an assembler line writes it, with the registers where the form is inherent and names
them (R97, R106).  An illegal opcode has none. -/
def mnemonicText : Instr → Option String
  | .nop => some "NOP"
  | .andcc _ => some "ANDCC"
  | .orcc _ => some "ORCC"
  | .illegal _ => none
  | .clra => some "CLRA"
  | .nega => some "NEGA"
  | .inca => some "INCA"
  | .deca => some "DECA"
  | .tsta => some "TSTA"
  | .coma => some "COMA"
  | .lsla => some "LSLA"
  | .lsra => some "LSRA"
  | .rola => some "ROLA"
  | .rora => some "RORA"
  | .asra => some "ASRA"
  | .psha => some "PSHA"
  | .pshx => some "PSHX"
  | .pshy => some "PSHY"
  | .pshcc => some "PSHCC"
  | .pula => some "PULA"
  | .pulx => some "PULX"
  | .puly => some "PULY"
  | .pulcc => some "PULCC"
  | .tfrACC => some "TFR A,CC"
  | .tfrCCA => some "TFR CC,A"
  | .tfrXY => some "TFR X,Y"
  | .tfrYX => some "TFR Y,X"
  | .tfrXSP => some "TFR X,SP"
  | .tfrSPX => some "TFR SP,X"
  | .tfrYSP => some "TFR Y,SP"
  | .tfrSPY => some "TFR SP,Y"
  | .bsr _ => some "BSR"
  | .bra _ => some "BRA"
  | .bmi _ => some "BMI"
  | .bpl _ => some "BPL"
  | .beq _ => some "BEQ"
  | .bne _ => some "BNE"
  | .bvs _ => some "BVS"
  | .bvc _ => some "BVC"
  | .bcs _ => some "BCS"
  | .bcc _ => some "BCC"
  | .bhi _ => some "BHI"
  | .bls _ => some "BLS"
  | .bgt _ => some "BGT"
  | .bge _ => some "BGE"
  | .ble _ => some "BLE"
  | .blt _ => some "BLT"
  | .stx _ => some "STX"
  | .sty _ => some "STY"
  | .stsp _ => some "STSP"
  | .jmp _ => some "JMP"
  | .jsr _ => some "JSR"
  | .clr _ => some "CLR"
  | .neg _ => some "NEG"
  | .inc _ => some "INC"
  | .dec _ => some "DEC"
  | .tst _ => some "TST"
  | .com _ => some "COM"
  | .lsl _ => some "LSL"
  | .lsr _ => some "LSR"
  | .rol _ => some "ROL"
  | .ror _ => some "ROR"
  | .asr _ => some "ASR"
  | .rts => some "RTS"
  | .rti => some "RTI"
  | .ldx _ => some "LDX"
  | .ldy _ => some "LDY"
  | .ldsp _ => some "LDSP"
  | .sbca _ => some "SBCA"
  | .suba _ => some "SUBA"
  | .adca _ => some "ADCA"
  | .adda _ => some "ADDA"
  | .cmpa _ => some "CMPA"
  | .bita _ => some "BITA"
  | .anda _ => some "ANDA"
  | .ora _ => some "ORA"
  | .eora _ => some "EORA"
  | .cmpx _ => some "CMPX"
  | .cmpy _ => some "CMPY"
  | .cmpsp _ => some "CMPSP"
  | .exgACC => some "EXG A,CC"
  | .exgXY => some "EXG X,Y"
  | .leasp _ => some "LEASP"
  | .exgXSP => some "EXG X,SP"
  | .leax _ => some "LEAX"
  | .leay _ => some "LEAY"
  | .exgYSP => some "EXG Y,SP"
  | .sta _ => some "STA"
  | .lda _ => some "LDA"

/-- The mnemonic that a synonym stands for (R82, R104).
DESIGN CHOICE (log entry 21): a mnemonic is matched letter for letter, in upper case. -/
def canonicalMnemonic (m : String) : String :=
  if m = "ASLA" then "LSLA" else if m = "ASL" then "LSL"
  else if m = "BHS" then "BCC" else if m = "BLO" then "BCS" else m

/-- The opcode of a mnemonic or synonym in a form, where the map has one (R80, R96).
DESIGN CHOICE (log entry 21): the spec does not say whether case matters (N16); here it does, and "lda" has
no opcode. -/
def findOpcode (mnemonic : String) (f : Form) : Option Byte :=
  ((List.range 256).map (BitVec.ofNat 8)).find? fun op =>
    instrForm ((opcodeRow op).instr 0) = f
      && mnemonicText ((opcodeRow op).instr 0) = some (canonicalMnemonic mnemonic)

/-! Numbers (R98). -/

/-- The value of a digit in a base.
DESIGN CHOICE (log entry 21): a hexadecimal digit may be written in either case (N16). -/
def digitValue (base : Nat) (ch : Char) : Option Nat :=
  let v :=
    if '0' ≤ ch && ch ≤ '9' then ch.toNat - '0'.toNat
    else if 'A' ≤ ch && ch ≤ 'F' then ch.toNat - 'A'.toNat + 10
    else if 'a' ≤ ch && ch ≤ 'f' then ch.toNat - 'a'.toNat + 10
    else base
  if v < base then some v else none

/-- The value of a string of digits after those already read. -/
def digitsValue (base : Nat) : List Char → Nat → Option Nat
  | [], acc => some acc
  | ch :: rest, acc =>
    match digitValue base ch with
    | some v => digitsValue base rest (base * acc + v)
    | none => none

/-- A number: `$` before a hexadecimal one, `%` before a binary one, no mark before a decimal one (R98). -/
def parseNumber : List Char → Option Nat
  | [] => none
  | ['$'] => none
  | ['%'] => none
  | '$' :: digits => digitsValue 16 digits 0
  | '%' :: digits => digitsValue 2 digits 0
  | digits => digitsValue 10 digits 0

/-! Lines. -/

/-- A value: a constant, or a symbol (R98). -/
inductive Value where
  | const (n : Int)
  | sym (name : String)
deriving DecidableEq, Repr

/-- A line: one of the five directives (R99 to R103), or an instruction (R97).  A symbol before FCB, FCS,
RMB or an instruction takes the line's address. -/
inductive Line where
  | org (v : Value)
  | equ (name : String) (v : Value)
  | fcb (label : Option String) (vs : List Value)
  | fcs (label : Option String) (text : List Char)
  | rmb (label : Option String) (v : Value)
  | op (label : Option String) (mnemonic : String) (f : Form) (v : Value)
deriving DecidableEq, Repr

/-- The symbols defined so far. -/
abbrev Symbols := List (String × Int)

/-- The value of a constant, or of a symbol if it is defined; of two definitions the first (log entry 17).
DESIGN CHOICE (log entry 21): two names are one symbol only if they agree in case (N16). -/
def evalValue (syms : Symbols) : Value → Option Int
  | .const n => some n
  | .sym name => syms.lookup name

def defineAt (label : Option String) (loc : Byte) (syms : Symbols) : Symbols :=
  match label with
  | some name => syms ++ [(name, (loc.toNat : Int))]
  | none => syms

/-- Where the next line stands and what is defined after a line.  The values of ORG, EQU and RMB must be
defined already (R99; for EQU and RMB log entry 17). -/
def afterLine (l : Line) (loc : Byte) (syms : Symbols) : Option (Byte × Symbols) :=
  match l with
  | .org v => (evalValue syms v).map fun n => (BitVec.ofInt 8 n, syms)
  | .equ name v => (evalValue syms v).map fun n => (loc, syms ++ [(name, n)])
  | .fcb label vs => some (loc + BitVec.ofNat 8 vs.length, defineAt label loc syms)
  | .fcs label text => some (loc + BitVec.ofNat 8 text.length, defineAt label loc syms)
  | .rmb label v =>
    (evalValue syms v).map fun n => (loc + BitVec.ofInt 8 n, defineAt label loc syms)
  | .op label _ f _ => some (loc + (if f.hasOperand then 2 else 1), defineAt label loc syms)

/-- The first pass: the symbols of the whole program. -/
def collectSymbols : List Line → Byte → Symbols → Option Symbols
  | [], _, syms => some syms
  | l :: rest, loc, syms =>
    match afterLine l loc syms with
    | some (loc', syms') => collectSymbols rest loc' syms'
    | none => none

/-- The operand byte of a value: a relative branch takes the distance from the byte after it (R97). -/
def operandByte (f : Form) (loc : Byte) (n : Int) : Byte :=
  match f with
  | .pc => BitVec.ofInt 8 n - (loc + 2)
  | _ => BitVec.ofInt 8 n

/-- The bytes of a line, with every symbol known; none where a symbol is not defined or the mnemonic has no such
form (log entry 23).
DESIGN CHOICE (log entry 22): the byte of an FCS character is the low eight bits of its code point.  For an
ASCII character that is its ASCII code (R102); what stands beyond ASCII the spec does not say (N17). -/
def lineBytes (syms : Symbols) (loc : Byte) : Line → Option (List Byte)
  | .org _ | .equ _ _ | .rmb _ _ => some []
  | .fcb _ vs => (vs.mapM (evalValue syms)).map fun ns => ns.map (BitVec.ofInt 8)
  | .fcs _ text => some (text.map fun ch => BitVec.ofNat 8 ch.toNat)
  | .op _ mnemonic f v =>
    match findOpcode mnemonic f with
    | none => none
    | some op =>
      if f.hasOperand then (evalValue syms v).map fun n => [op, operandByte f loc n]
      else some [op]

/-- A program image: bytes with their addresses, MEM_IMAGE of R52, in the order of the lines.  An address
may stand in it twice (log entry 17). -/
abbrev Image := List (Byte × Byte)

/-- Bytes at successive addresses (R101). -/
def atAddresses : Byte → List Byte → Image
  | _, [] => []
  | loc, b :: rest => (loc, b) :: atAddresses (loc + 1) rest

/-- The second pass. -/
def emitLines (syms : Symbols) : List Line → Byte → Symbols → Option Image
  | [], _, _ => some []
  | l :: rest, loc, sofar =>
    match afterLine l loc sofar, lineBytes syms loc l with
    | some (loc', sofar'), some bytes =>
      (emitLines syms rest loc' sofar').map fun more => atAddresses loc bytes ++ more
    | _, _ => none

/-- The image of a program, none where a line cannot be assembled.
DESIGN CHOICE (log entry 17): what stands before any ORG starts at $00, since R99 says only where what
follows an ORG goes. -/
def assemble (lines : List Line) : Option Image :=
  match collectSymbols lines 0 [] with
  | some syms => emitLines syms lines 0 []
  | none => none

/-- The state with an image put into memory; the image says nothing of the port addresses (D5).
DESIGN CHOICE (log entry 17): of two bytes at one address the later one stands, since the spec says nothing
of a program that places two (R101, 20_memory.md R52). -/
def State.loadImage (s : State) : Image → State
  | [] => s
  | (a, b) :: rest => State.loadImage (if portAt a = none then s.setCell a b else s) rest

end Sys2Proof.Machine
end

