-- ==== Sys2Proof/Machine/Timing.lean ====
section
/-! DEFINITION. The length and the cycle count of every instruction (30_encoding.md R76, R80,
70_reset_and_hazards.md R289).  No state depends on the counts (R289, log entry 14). -/

namespace Sys2Proof.Machine

/-- The number of bytes of a well-formed instruction (R76). -/
def byteLength (i : Instr) : Nat := 1 + i.operandBytes.length

/-- The cycles of LDA and STA in a memory mode: one more in an auto increment or decrement mode (R289). -/
def accessCycles : MemMode → Nat
  | .ab _ | .ns _ | .nx _ | .ny _ | .ax | .ay => 3
  | .xPostInc | .xPostDec | .xPreInc | .xPreDec | .yPostInc | .yPostDec | .yPreInc | .yPreDec => 4

/-- The cycles of an instruction with a source operand that takes `n` with immediate data (R289). -/
def sourceCycles (n : Nat) : Operand → Nat
  | .im _ => n
  | .mem _ => n + 1

/-- The number of clock cycles of a well-formed instruction, where the source gives one: it gives none
for the illegal opcodes (R289, R290). -/
def cycles : Instr → Option Nat
  | .illegal _ => none
  | .nop | .tsta | .tfrACC | .tfrCCA | .tfrXY | .tfrYX | .tfrXSP | .tfrSPX | .tfrYSP | .tfrSPY
  | .rts => some 2
  | .andcc _ | .orcc _ | .exgACC | .exgXY | .exgXSP | .exgYSP | .leax _ | .leay _ | .leasp _ => some 4
  | .clra | .nega | .inca | .deca | .coma | .lsla | .lsra | .rola | .rora | .asra | .psha | .pshx
  | .pshy | .pshcc | .pula | .pulx | .puly | .pulcc => some 3
  | .bra _ | .bmi _ | .bpl _ | .beq _ | .bne _ | .bvs _ | .bvc _ | .bcs _ | .bcc _ | .bhi _
  | .bls _ | .bgt _ | .bge _ | .ble _ | .blt _ => some 4
  | .bsr _ => some 5
  | .rti => some 6
  | .jmp (.ab _) => some 2
  | .jmp _ => some 4
  | .jsr (.ab _) => some 4
  | .jsr _ => some 5
  | .stx _ | .sty _ | .stsp _ | .clr _ | .tst _ => some 3
  | .neg _ | .inc _ | .dec _ | .com _ | .lsl _ | .lsr _ | .rol _ | .ror _ | .asr _ => some 4
  | .ldx o | .ldy o | .ldsp o => some (sourceCycles 2 o)
  | .sbca o | .suba o | .adca o | .adda o | .anda o | .ora o | .eora o => some (sourceCycles 4 o)
  | .cmpa o | .bita o | .cmpx o | .cmpy o | .cmpsp o => some (sourceCycles 3 o)
  | .sta m => some (accessCycles m)
  | .lda (.im _) => some 2
  | .lda (.mem m) => some (accessCycles m)

end Sys2Proof.Machine
end

