-- ==== Sys2Proof/Safety.lean ====
section
/-! DEFINITION. What counts as a good state and a good run: the invariant every step keeps, the boundary at
which an instruction is fetched, and the spec's convention for the end of a run
(70_reset_and_hazards.md R292); and the terms in which the claims say what an instruction changes and
what it leaves. -/

namespace Sys2Proof.Machine

/-- Memory holds no cell at a port address: a write to a port changes no memory (20_memory.md R56). -/
def State.portsUnlisted (s : State) : Bool :=
  s.mem.all fun cell => cell.1 != 0xFB && cell.1 != 0xFC

/-- The invariant: memory is in its canonical form, over the 256 addresses of R50, and lists no port. -/
def State.inv (s : State) : Bool := s.mem.wf && s.portsUnlisted

/-- At this boundary the step is the fetch and execution of an instruction (00_scope.md R20). -/
def State.fetches (s : State) : Bool := s.boundary.reset == .idle && !s.interruptTaken

/-- No reset and no interrupt can come at this boundary or a later one: Reset stays idle, and the
interrupt is masked or its line stays down (R292). -/
def State.undisturbed (s : State) : Bool :=
  s.lines.all fun b => b.reset == .idle && (s.cc.i || !b.irq)

/-- The step changes nothing but that the boundary is behind: a self-branch (R292). -/
def State.selfBranch (s : State) : Bool :=
  match step s with
  | .next t => t == s.passBoundary
  | _ => false

/-- `HALT_CONVENTION` (R292, D13): a self-branch while nothing can disturb it. -/
def State.runEnded (s : State) : Bool := s.selfBranch && s.undisturbed

/-! The terms of the claims about instructions. -/

/-- X after an instruction in a memory mode: the auto modes on X move it by one (30_encoding.md R92 to R95). -/
def indexX : MemMode → State → Byte
  | .xPostInc, s | .xPreInc, s => s.x + 1
  | .xPostDec, s | .xPreDec, s => s.x - 1
  | _, s => s.x

/-- Y after an instruction in a memory mode: the auto modes on Y move it by one (R92 to R95). -/
def indexY : MemMode → State → Byte
  | .yPostInc, s | .yPreInc, s => s.y + 1
  | .yPostDec, s | .yPreDec, s => s.y - 1
  | _, s => s.y

/-- X after an instruction with a source operand. -/
def operandX : Operand → State → Byte
  | .im _, s => s.x
  | .mem m, s => indexX m s

/-- Y after an instruction with a source operand. -/
def operandY : Operand → State → Byte
  | .im _, s => s.y
  | .mem m, s => indexY m s

/-- `Opr`: the operand byte itself (R85), or the byte that a read at EA returns. -/
def operandValue : Operand → State → Byte
  | .im n, _ => n
  | .mem m, s => s.readVal (effectiveAddress m s)

/-- The six registers. -/
def State.hasRegisters (t : State) (a x y sp pc : Byte) (cc : CC) : Prop :=
  t.a = a ∧ t.x = x ∧ t.y = y ∧ t.sp = sp ∧ t.pc = pc ∧ t.cc = cc

/-- Neither the input lines nor the board have changed. -/
def keepsLines (s t : State) : Prop := t.lines = s.lines ∧ t.board = s.board

/-- No byte of memory has changed and no byte has gone out to a port. -/
def storesNothing (s t : State) : Prop := (∀ b, t.cell b = s.cell b) ∧ t.portOut = s.portOut

/-- One byte has been stored at one address and nothing else: at a port address it is an output event and
memory is as before (20_memory.md R56), at a read-only address nothing changes (R54). -/
def storesAt (s t : State) (ea v : Byte) : Prop :=
  (∀ b, b ≠ ea → t.cell b = s.cell b) ∧
  (ea = 0xFB → t.cell ea = s.cell ea ∧ t.portOut = s.portOut ++ [(.fb, v)]) ∧
  (ea = 0xFC → t.cell ea = s.cell ea ∧ t.portOut = s.portOut ++ [(.fc, v)]) ∧
  (ea ≠ 0xFB → ea ≠ 0xFC →
    t.portOut = s.portOut ∧ t.cell ea = if ea ∈ s.board.readOnly then s.cell ea else v)

/-- No port has been read. -/
def readsNoPort (s t : State) : Prop := t.portFB = s.portFB ∧ t.portFC = s.portFC

/-- A port's input after one read: the byte presented is gone and the read is counted (R57). -/
def PortInput.afterOneRead (p q : PortInput) : Prop :=
  q.pending = p.pending.drop 1 ∧ q.reads = p.reads + 1

/-- One address has been read: if it is a port's, that port's input has moved on by one. -/
def readsAt (s t : State) (ea : Byte) : Prop :=
  (if ea = 0xFB then s.portFB.afterOneRead t.portFB else t.portFB = s.portFB) ∧
  (if ea = 0xFC then s.portFC.afterOneRead t.portFC else t.portFC = s.portFC)

/-- The operand has been read, from memory if it is there. -/
def readsOperand (s t : State) : Operand → Prop
  | .im _ => readsNoPort s t
  | .mem m => readsAt s t (effectiveAddress m s)

/-- An instruction's code (30_encoding.md R80): its bytes, that they decode to it and to nothing more, and
its cycles. -/
def codedAs (i : Instr) (bytes : List Byte) (n : Nat) : Prop :=
  i.wf = true ∧ encode i = bytes ∧ decode bytes = .ok (i, []) ∧ cycles i = some n

/-- The codes of an instruction with the modes im, ab, ns, nx, ny, which takes `n` cycles with immediate
data and one more with memory (R289). -/
def codedSource (mk : Operand → Instr) (im ab ns nx ny : Byte) (n : Nat) : Prop :=
  ∀ d, codedAs (mk (.im d)) [im, d] n ∧ codedAs (mk (.mem (.ab d))) [ab, d] (n + 1) ∧
    codedAs (mk (.mem (.ns d))) [ns, d] (n + 1) ∧ codedAs (mk (.mem (.nx d))) [nx, d] (n + 1) ∧
    codedAs (mk (.mem (.ny d))) [ny, d] (n + 1)

/-- The codes of an instruction with the modes ab, ns, nx, ax, ny, ay, which takes `n` cycles. -/
def codedMem (mk : MemMode → Instr) (ab ns nx ax ny ay : Byte) (n : Nat) : Prop :=
  (∀ d, codedAs (mk (.ab d)) [ab, d] n ∧ codedAs (mk (.ns d)) [ns, d] n ∧
    codedAs (mk (.nx d)) [nx, d] n ∧ codedAs (mk (.ny d)) [ny, d] n) ∧
  codedAs (mk .ax) [ax] n ∧ codedAs (mk .ay) [ay] n

/-- The codes of LDA or STA from a base opcode: the modes ab, ns, nx, ax, x+, x-, +x, -x, ny, ay, y+, y-,
+y, -y are the base plus 1 to 14 (R78). -/
def codedAuto (mk : MemMode → Instr) (base : Byte) : Prop :=
  (∀ d, codedAs (mk (.ab d)) [base + 0x1, d] 3 ∧ codedAs (mk (.ns d)) [base + 0x2, d] 3 ∧
    codedAs (mk (.nx d)) [base + 0x3, d] 3 ∧ codedAs (mk (.ny d)) [base + 0x9, d] 3) ∧
  codedAs (mk .ax) [base + 0x4] 3 ∧ codedAs (mk .ay) [base + 0xA] 3 ∧
  codedAs (mk .xPostInc) [base + 0x5] 4 ∧ codedAs (mk .xPostDec) [base + 0x6] 4 ∧
  codedAs (mk .xPreInc) [base + 0x7] 4 ∧ codedAs (mk .xPreDec) [base + 0x8] 4 ∧
  codedAs (mk .yPostInc) [base + 0xB] 4 ∧ codedAs (mk .yPostDec) [base + 0xC] 4 ∧
  codedAs (mk .yPreInc) [base + 0xD] 4 ∧ codedAs (mk .yPreDec) [base + 0xE] 4

/-- The effect of an instruction with a source operand that writes registers only: it answers a next state
with these registers, the operand read once, and everything else as it was. -/
def sourceEffect (i : Instr) (o : Operand) (s : State) (a x y sp : Byte) (cc : CC) : Prop :=
  ∃ t, exec i s = .next t ∧ t.hasRegisters a x y sp s.pc cc ∧ storesNothing s t ∧
    readsOperand s t o ∧ keepsLines s t

/-- The effect of an inherent instruction on registers only: no access is made. -/
def inherentEffect (i : Instr) (s : State) (a x y sp pc : Byte) (cc : CC) : Prop :=
  ∃ t, exec i s = .next t ∧ t.hasRegisters a x y sp pc cc ∧ storesNothing s t ∧
    readsNoPort s t ∧ keepsLines s t

/-- The effect of an instruction that stores one byte in a memory mode without reading it: the index
register moves as the mode says, and CC becomes `cc`. -/
def storeEffect (i : Instr) (m : MemMode) (s : State) (v : Byte) (cc : CC) : Prop :=
  ∃ t, exec i s = .next t ∧ t.hasRegisters s.a (indexX m s) (indexY m s) s.sp s.pc cc ∧
    storesAt s t (effectiveAddress m s) v ∧ readsNoPort s t ∧ keepsLines s t

/-- The effect of a read-modify-write: one read and one write at the same EA (20_memory.md R62). -/
def modifyEffect (i : Instr) (m : MemMode) (s : State) (v : Byte) (cc : CC) : Prop :=
  ∃ t, exec i s = .next t ∧ t.hasRegisters s.a (indexX m s) (indexY m s) s.sp s.pc cc ∧
    storesAt s t (effectiveAddress m s) v ∧ readsAt s t (effectiveAddress m s) ∧ keepsLines s t

/-- The effect of an instruction that pushes one byte: SP first goes down by one and the byte is stored
where it then points (00_scope.md R14). -/
def pushEffect (i : Instr) (s : State) (v pc : Byte) : Prop :=
  ∃ t, exec i s = .next t ∧ t.hasRegisters s.a s.x s.y (s.sp - 1) pc s.cc ∧
    storesAt s t (s.sp - 1) v ∧ readsNoPort s t ∧ keepsLines s t

/-- The effect of an instruction that pulls one byte: the byte is read where SP points and SP goes up by one
afterwards (R14). -/
def pullEffect (i : Instr) (s : State) (a x y pc : Byte) (cc : CC) : Prop :=
  ∃ t, exec i s = .next t ∧ t.hasRegisters a x y (s.sp + 1) pc cc ∧ storesNothing s t ∧
    readsAt s t s.sp ∧ keepsLines s t

/-- A branch with offset `n`, taken or not: nothing but PC changes (42_flow_control.md R130, R135). -/
def branchEffect (i : Instr) (n : Byte) (taken : Prop) [Decidable taken] (s : State) : Prop :=
  inherentEffect i s s.a s.x s.y s.sp (if taken then s.pc + n else s.pc) s.cc

/-- Addresses have been read, each once: the inputs of the ports among them have moved on (R57). -/
def readsAll (s t : State) (addresses : List Byte) : Prop :=
  t.portFB.pending = s.portFB.pending.drop (addresses.count 0xFB) ∧
  t.portFB.reads = s.portFB.reads + addresses.count 0xFB ∧
  t.portFC.pending = s.portFC.pending.drop (addresses.count 0xFC) ∧
  t.portFC.reads = s.portFC.reads + addresses.count 0xFC

/-- What goes out to the ports when bytes are written at addresses in this order. -/
def portEvents (writes : List (Byte × Byte)) : List (Port × Byte) :=
  writes.filterMap fun w => (portAt w.1).map fun p => (p, w.2)

/-- The frame of an exception has been pushed (60_exceptions.md R243): PC, Y, X, A and CC lie below the old
SP, where the address is ordinary and writable memory, and every other cell is as before. -/
def pushesFrame (s t : State) : Prop :=
  (∀ b, t.cell b =
    if b = 0xFB ∨ b = 0xFC ∨ b ∈ s.board.readOnly then s.cell b
    else if b = s.sp - 1 then s.pc
    else if b = s.sp - 2 then s.y
    else if b = s.sp - 3 then s.x
    else if b = s.sp - 4 then s.a
    else if b = s.sp - 5 then s.cc.toByte
    else s.cell b) ∧
  t.portOut = s.portOut ++ portEvents [(s.sp - 1, s.pc), (s.sp - 2, s.y), (s.sp - 3, s.x),
    (s.sp - 4, s.a), (s.sp - 5, s.cc.toByte)]

/-- A handler has been entered: the frame is pushed, PC is the byte that the vector then holds, I is `setI`,
and nothing else has changed (R244, R246, R262). -/
def entersHandler (s t : State) (vector : Byte) (setI : Bool) : Prop :=
  t.hasRegisters s.a s.x s.y (s.sp - 5) (t.cell vector) { s.cc with i := setI } ∧
    pushesFrame s t ∧ readsNoPort s t ∧ keepsLines s t

/-- The five addresses of the frame are ordinary and writable memory. -/
def State.frameFits (s : State) : Prop :=
  ∀ k ∈ [1, 2, 3, 4, 5], s.sp - k ≠ 0xFB ∧ s.sp - k ≠ 0xFC ∧ s.sp - k ∉ s.board.readOnly

/-- The reads of data that an instruction makes after its fetch, in order (20_memory.md R60). -/
def dataReads (i : Instr) (s : State) : List Byte :=
  match i with
  | .lda o | .ldx o | .ldy o | .ldsp o | .adda o | .adca o | .suba o | .sbca o | .anda o | .ora o
  | .eora o | .bita o | .cmpa o | .cmpx o | .cmpy o | .cmpsp o =>
    match o with
    | .im _ => []
    | .mem m => [effectiveAddress m s]
  | .tst m | .neg m | .inc m | .dec m | .com m | .lsl m | .lsr m | .rol m | .ror m | .asr m =>
    [effectiveAddress m s]
  | .pula | .pulx | .puly | .pulcc | .rts => [s.sp]
  | .rti => [s.sp, s.sp + 1, s.sp + 2, s.sp + 3, s.sp + 4]
  | .illegal _ => [0xFE]
  | _ => []

/-- The writes that an instruction makes, in order (R60). -/
def dataWrites (i : Instr) (s : State) : List Byte :=
  match i with
  | .sta m | .stx m | .sty m | .stsp m | .clr m | .neg m | .inc m | .dec m | .com m | .lsl m
  | .lsr m | .rol m | .ror m | .asr m => [effectiveAddress m s]
  | .psha | .pshx | .pshy | .pshcc | .bsr _ | .jsr _ => [s.sp - 1]
  | .illegal _ => [s.sp - 1, s.sp - 2, s.sp - 3, s.sp - 4, s.sp - 5]
  | _ => []

/-- The instructions that write A (10_state.md R26, and RTI). -/
def writesA : Instr → Bool
  | .adda _ | .adca _ | .suba _ | .sbca _ | .anda _ | .ora _ | .eora _ | .lda _ | .pula | .clra
  | .nega | .inca | .deca | .coma | .lsla | .lsra | .rola | .rora | .asra | .tfrCCA | .exgACC
  | .rti => true
  | _ => false

/-- The instructions that write X (R27): the auto modes of LDA and STA write it back. -/
def writesX : Instr → Bool
  | .ldx _ | .leax _ | .pulx | .tfrYX | .tfrSPX | .exgXY | .exgXSP | .rti => true
  | .lda (.mem m) | .sta m =>
    match m with
    | .xPostInc | .xPostDec | .xPreInc | .xPreDec => true
    | _ => false
  | _ => false

/-- The instructions that write Y (R27). -/
def writesY : Instr → Bool
  | .ldy _ | .leay _ | .puly | .tfrXY | .tfrSPY | .exgXY | .exgYSP | .rti => true
  | .lda (.mem m) | .sta m =>
    match m with
    | .yPostInc | .yPostDec | .yPreInc | .yPreDec => true
    | _ => false
  | _ => false

/-- The instructions that write SP (R28), and the trap of an illegal opcode. -/
def writesSP : Instr → Bool
  | .ldsp _ | .leasp _ | .tfrXSP | .tfrYSP | .exgXSP | .exgYSP | .psha | .pshx | .pshy | .pshcc
  | .pula | .pulx | .puly | .pulcc | .bsr _ | .jsr _ | .rts | .rti | .illegal _ => true
  | _ => false

/-- The instructions that write PC beside the fetch (R30). -/
def writesPC : Instr → Bool
  | .bra _ | .bsr _ | .bmi _ | .bpl _ | .beq _ | .bne _ | .bvs _ | .bvc _ | .bcs _ | .bcc _
  | .bhi _ | .bls _ | .bgt _ | .bge _ | .ble _ | .blt _ | .jmp _ | .jsr _ | .rts | .rti
  | .illegal _ => true
  | _ => false

/-- The instructions that load all five flags from a byte (R34). -/
def loadsFlags : Instr → Bool
  | .andcc _ | .orcc _ | .pulcc | .tfrACC | .exgACC | .rti => true
  | _ => false

/-- The instructions that write C (R34). -/
def writesC : Instr → Bool
  | .adda _ | .adca _ | .suba _ | .sbca _ | .cmpa _ | .cmpx _ | .cmpy _ | .cmpsp _ | .nega | .neg _
  | .clra | .clr _ | .tsta | .tst _ | .lsla | .lsl _ | .rola | .rol _ | .lsra | .lsr _ | .rora
  | .ror _ | .asra | .asr _ => true
  | i => loadsFlags i

/-- The instructions that write N, Z and V (R34). -/
def writesNZV : Instr → Bool
  | .inca | .inc _ | .deca | .dec _ | .anda _ | .ora _ | .eora _ | .bita _ | .coma | .com _ | .lda _
  | .ldx _ | .ldy _ | .ldsp _ => true
  | i => writesC i

/-- The instructions that can write I (R34, R254): those that load the flags, and the trap of an illegal
opcode, if `TRAP_SETS_I` holds. -/
def writesI (s : State) : Instr → Bool
  | .illegal _ => s.board.trapSetsI
  | i => loadsFlags i

/-- After a comparison of `r` with `v` the branches read as comparisons (44_test.md R175): unsigned for
BHI, BCC, BLS and BCS, signed for BGT, BGE, BLE and BLT. -/
def branchesCompare (t : State) (r v : Byte) : Prop :=
  ∀ n, branchEffect (.beq n) n (r = v) t ∧ branchEffect (.bne n) n (r ≠ v) t ∧
    branchEffect (.bhi n) n (v.toNat < r.toNat) t ∧ branchEffect (.bcc n) n (v.toNat ≤ r.toNat) t ∧
    branchEffect (.bls n) n (r.toNat ≤ v.toNat) t ∧ branchEffect (.bcs n) n (r.toNat < v.toNat) t ∧
    branchEffect (.bgt n) n (v.toInt < r.toInt) t ∧ branchEffect (.bge n) n (v.toInt ≤ r.toInt) t ∧
    branchEffect (.ble n) n (r.toInt ≤ v.toInt) t ∧ branchEffect (.blt n) n (r.toInt < v.toInt) t

/-- Instructions one after the other, without their fetches. -/
def execAll : List Instr → State → Result
  | [], s => .next s
  | i :: rest, s =>
    match exec i s with
    | .next t => execAll rest t
    | .fault r => .fault r
    | .refused r => .refused r

/-- An address of ordinary memory that accepts a write (20_memory.md R52, R54). -/
abbrev State.ordinary (s : State) (a : Byte) : Prop := a ≠ 0xFB ∧ a ≠ 0xFC ∧ a ∉ s.board.readOnly

/-- Two cells as one 16-bit number. -/
def State.word (s : State) (high low : Byte) : Nat := 256 * (s.cell high).toNat + (s.cell low).toNat

end Sys2Proof.Machine
end

