-- ==== Sys2Proof/Certificates/Slice0/Obligations.lean ====
section
/-! DEFINITION. The statements for the provers.  Each docstring names the rules of spec/ that the statement
formalises; OBLIGATIONS.json lists them. -/

open Sys2Proof Sys2Proof.Machine

/-! ## Encoding -/

/-- 30_encoding.md R75 to R81, R96: decoding the bytes of any well-formed instruction, whatever follows
them, gives that instruction and leaves what follows. -/
def Obligations.DecodeReversesEncode : Prop :=
  ∀ i rest, i.wf = true → decode (encode i ++ rest) = .ok (i, rest)

/-- R75, R80, R96: whatever bytes decode, the instruction has an encoding and its encoding is those bytes. -/
def Obligations.EncodeReversesDecode : Prop :=
  ∀ bytes i rest, decode bytes = .ok (i, rest) → i.wf = true ∧ encode i ++ rest = bytes

/-- R75, R76, 70_reset_and_hazards.md R289, R290: the opcode alone fixes the addressing mode, the length and
the cycles; one byte for ih, ax, ay and the auto modes, two for im, ab, pc, ns, nx, ny; an illegal opcode
is one byte long, and only the illegal opcodes have no cycle count. -/
def Obligations.OpcodeAloneFixesModeLengthAndCycles : Prop :=
  (∀ i j, i.wf = true → j.wf = true → i.opcode = j.opcode →
    instrForm i = instrForm j ∧ cycles i = cycles j) ∧
  (∀ i, i.wf = true → (encode i).length =
    if instrForm i ∈ [.im, .ab, .pc, .ns, .nx, .ny] then 2 else 1) ∧
  (∀ op ∈ illegalOpcodes, (encode (.illegal op)).length = 1) ∧
  (∀ i, i.wf = true → (cycles i = none ↔ i.opcode ∈ illegalOpcodes))

/-- R79, R81: with every operand byte each opcode decodes, and to an illegal one exactly when it is $03, $04,
$DF, $E0, $EF or $FF. -/
def Obligations.IllegalOpcodesAreExactlySix : Prop :=
  ∀ op n : Byte, ∃ i rest, decode [op, n] = .ok (i, rest) ∧ i.opcode = op ∧
    ((∃ c, i = .illegal c) ↔
      op = 0x03 ∨ op = 0x04 ∨ op = 0xDF ∨ op = 0xE0 ∨ op = 0xEF ∨ op = 0xFF)

/-- R80: words written out from the opcode map decode to the instructions they stand for, one of each
family. -/
def Obligations.SampleWordsDecode : Prop :=
  decode [0xF3, 0xFF] = .ok (.lda (.mem (.nx 0xFF)), []) ∧
  decode [0xEE] = .ok (.sta .yPreDec, []) ∧
  decode [0x1D] = .ok (.tfrSPX, []) ∧
  decode [0x74, 0x01] = .ok (.jsr (.ny 0x01), []) ∧
  decode [0x2C, 0x10] = .ok (.bgt 0x10, []) ∧
  decode [0xD6, 0x05] = .ok (.adda (.mem (.ny 0x05)), []) ∧
  decode [0x9E, 0xF0] = .ok (.cmpsp (.im 0xF0), []) ∧
  decode [0x02, 0x10] = .ok (.orcc 0x10, []) ∧
  decode [0x6D] = .ok (.rol .ax, []) ∧
  decode [0x17] = .ok (.pulcc, []) ∧
  decode [0x44] = .ok (.rti, []) ∧
  decode [0xDF] = .ok (.illegal 0xDF, [])

/-! ## The step -/

/-- 00_scope.md R13, R20: where no reset and no interrupt comes, and the bytes at PC decode to a well-formed
instruction, the step is that instruction's meaning in the state after the fetches: PC is past the
instruction (modulo 256), the boundary is behind, the fetched addresses have been read (a port among them
has moved on), and nothing else has changed. -/
def Obligations.StepRunsTheDecodedInstruction : Prop :=
  ∀ s i rest, s.fetches = true → i.wf = true →
    decode [s.readVal s.pc, s.readVal (s.pc + 1)] = .ok (i, rest) →
    ∃ t, step s = exec i t ∧
      t.hasRegisters s.a s.x s.y s.sp (s.pc + BitVec.ofNat 8 (byteLength i)) s.cc ∧
      t.mem = s.mem ∧ t.portOut = s.portOut ∧
      readsAll s t ((List.range (byteLength i)).map fun k => s.pc + BitVec.ofNat 8 k) ∧
      keepsLines s.passBoundary t

/-- 00_scope.md R16, 60_exceptions.md R240: every instruction has a next state, from every state. -/
def Obligations.EveryInstructionCompletes : Prop :=
  ∀ i s, ∃ t, exec i s = .next t

/-- R16, R20, R240: a step answers a next state, but where Reset cuts into an instruction, where it stops with
the one fault of the model (log entry 8: the spec gives no state there, 70_reset_and_hazards.md R282). -/
def Obligations.StepStopsOnlyForResetInsideAnInstruction : Prop :=
  ∀ s, (s.boundary.reset = .insideInstruction → step s = .fault .resetInsideInstruction) ∧
    (s.boundary.reset ≠ .insideInstruction → ∃ t, step s = .next t)

/-- R292, 60_exceptions.md R267: a run never stops, however long, while no reset cuts into an instruction
(the one stop is the model's choice, log entry 8); it keeps the invariant, what the board fixes, and every read-only cell. -/
def Obligations.RunsNeverStop : Prop :=
  ∀ (k : Nat) (s : State), (∀ b ∈ s.lines, b.reset ≠ .insideInstruction) → s.inv = true →
    ∃ t, Sys2Proof.core.run k s = .next t ∧ t.inv = true ∧ t.board = s.board ∧
      (∀ a ∈ s.board.readOnly, t.cell a = s.cell a) ∧ t.lines = s.lines.drop k ∧
      ∃ out, t.portOut = s.portOut ++ out

/-- The state after reset meets the invariant; the interrupt is masked and PC is the byte at the reset vector
(10_state.md R41, 70_reset_and_hazards.md R281).  The other values of State.reset are the model's choices
(log entries 1 and 2). -/
def Obligations.ResetStateMeetsTheInvariant : Prop :=
  State.reset.inv = true ∧ State.reset.cc.i = true ∧ State.reset.pc = State.reset.cell 0xFF

/-- 20_memory.md R50, R56: every step keeps the invariant: memory stays in its canonical form over the 256
addresses (the form is the model's, log entry 2), and the port addresses hold no memory. -/
def Obligations.StepKeepsTheInvariant : Prop :=
  ∀ s t, s.inv = true → step s = .next t → t.inv = true

/-- R54, R56, 00_scope.md R20: every step keeps what the board fixes and the cells of its read-only
addresses, leaves the cells at the port addresses alone, passes exactly one boundary, and takes back
nothing that has gone out to a port. -/
def Obligations.StepKeepsBoardAndReadOnlyCells : Prop :=
  ∀ s t, step s = .next t → t.board = s.board ∧ (∀ a ∈ s.board.readOnly, t.cell a = s.cell a) ∧
    t.cell 0xFB = s.cell 0xFB ∧ t.cell 0xFC = s.cell 0xFC ∧ t.lines = s.lines.tail ∧
    ∃ out, t.portOut = s.portOut ++ out

/-- R60: after its fetch an instruction accesses exactly the addresses of the table: only the cells written
can change, the ports written are those among the writes in their order, and each port's input moves on
by the number of reads of its address. -/
def Obligations.AccessesAreTheTablesOwn : Prop :=
  ∀ i s t, exec i s = .next t →
    (∀ b, b ∉ dataWrites i s → t.cell b = s.cell b) ∧
    (t.portOut.map fun e => e.1) =
      (s.portOut.map fun e => e.1) ++ (dataWrites i s).filterMap portAt ∧
    readsAll s t (dataReads i s)

/-- 10_state.md R26 to R30: a well-formed instruction changes A, X, Y, SP and PC only if it is one of those
that the rules name for the register. -/
def Obligations.RegistersChangeOnlyWhereNamed : Prop :=
  ∀ i s t, i.wf = true → exec i s = .next t →
    (writesA i = false → t.a = s.a) ∧ (writesX i = false → t.x = s.x) ∧
    (writesY i = false → t.y = s.y) ∧ (writesSP i = false → t.sp = s.sp) ∧
    (writesPC i = false → t.pc = s.pc)

/-- R34: an instruction changes a flag only if the table of R34 names it for the flag. -/
def Obligations.FlagsChangeOnlyWhereNamed : Prop :=
  ∀ i s t, exec i s = .next t →
    (writesI s i = false → t.cc.i = s.cc.i) ∧
    (writesNZV i = false → t.cc.n = s.cc.n ∧ t.cc.z = s.cc.z ∧ t.cc.v = s.cc.v) ∧
    (writesC i = false → t.cc.c = s.cc.c)

/-- 49_alu_control.md R236, 60_exceptions.md R245, R254: if a step changes the interrupt mask, the step was
a reset, an interrupt entry, an illegal opcode's trap where `TRAP_SETS_I` holds, or one of RTI, ANDCC,
ORCC, TFR A,CC, EXG A,CC and PULCC.  ORCC and the events can only mask, ANDCC can only unmask. -/
def Obligations.MaskChangesOnlyByTheseEvents : Prop :=
  ∀ s t, step s = .next t → t.cc.i ≠ s.cc.i →
    (t.cc.i = true ∧ (s.boundary.reset = .atBoundary ∨ s.interruptTaken = true)) ∨
    (s.fetches = true ∧ ∃ i rest, decode [s.readVal s.pc, s.readVal (s.pc + 1)] = .ok (i, rest) ∧
      ((∃ op, i = .illegal op ∧ s.board.trapSetsI = true ∧ t.cc.i = true) ∨
        (∃ n, i = .orcc n ∧ t.cc.i = true) ∨ (∃ n, i = .andcc n ∧ t.cc.i = false) ∨
        i = .rti ∨ i = .tfrACC ∨ i = .exgACC ∨ i = .pulcc))

/-! ## Reset and exceptions -/

/-- R280: the reset action sets I and loads PC from $FF; nothing is stacked.  That A, X, Y, SP, N, Z, V and C
keep their values is R282's treatment of a reset later than the first, which log entry 18 follows (DEDUCED:
10_state.md R41 calls them unspecified); the memory and the ports are not touched (R282). -/
def Obligations.ResetMasksAndLoadsTheVector : Prop :=
  ∀ s, s.boundary.reset = .atBoundary →
    ∃ t, step s = .next t ∧
      t.hasRegisters s.a s.x s.y s.sp (s.cell 0xFF) { s.cc with i := true } ∧
      storesNothing s t ∧ readsNoPort s t ∧ keepsLines s.passBoundary t

/-- 60_exceptions.md R243, R244: an illegal opcode, once fetched, pushes the frame, sets I if `TRAP_SETS_I`
holds, and goes on at the byte that the vector $FE holds after the pushes; nothing else changes. -/
def Obligations.IllegalOpcodeTakesTheTrap : Prop :=
  ∀ op s, ∃ t, exec (.illegal op) s = .next t ∧
    entersHandler s t 0xFE (s.board.trapSetsI || s.cc.i)

/-- R242: an illegal opcode at PC, whatever the byte after it, is one byte long: the trap is entered with the
address after the opcode as the return address, that byte is not read, and the frame holds the registers
and flags as they were. -/
def Obligations.TrapStacksTheAddressAfterTheOpcode : Prop :=
  ∀ s, s.fetches = true → s.readVal s.pc ∈ illegalOpcodes →
    ∃ t u, step s = .next u ∧ entersHandler t u 0xFE (s.board.trapSetsI || s.cc.i) ∧
      t.hasRegisters s.a s.x s.y s.sp (s.pc + 1) s.cc ∧ t.mem = s.mem ∧ t.portOut = s.portOut ∧
      readsAll s t [s.pc] ∧ keepsLines s.passBoundary t

/-- R245, R246: at a boundary without reset the interrupt is taken exactly where the line is up and I is 0.
Taken, the frame with the PC of the next instruction and the old flags is pushed, I is set and PC loaded
from $FD, whatever stands at PC; not taken, the step is the fetched instruction's meaning. -/
def Obligations.InterruptIsTakenWhereUnmasked : Prop :=
  ∀ s, s.boundary.reset = .idle →
    (s.boundary.irq = true ∧ s.cc.i = false →
      ∃ t, step s = .next t ∧ entersHandler s.passBoundary t 0xFD true) ∧
    (¬ (s.boundary.irq = true ∧ s.cc.i = false) →
      step s = exec (fetchInstr s.passBoundary).1 (fetchInstr s.passBoundary).2)

/-- 42_flow_control.md R151: RTI pulls CC, A, X, Y and PC, in this order, from SP to SP + 4. -/
def Obligations.ReturnFromInterruptPullsFiveBytes : Prop :=
  codedAs .rti [0x44] 6 ∧
  ∀ s, ∃ t, exec .rti s = .next t ∧
    t.hasRegisters (s.readVal (s.sp + 1)) (s.readVal (s.sp + 2)) (s.readVal (s.sp + 3)) (s.sp + 5)
      (s.readVal (s.sp + 4))
      { i := (s.readVal s.sp).getLsbD 4, n := (s.readVal s.sp).getLsbD 3,
        z := (s.readVal s.sp).getLsbD 2, v := (s.readVal s.sp).getLsbD 1,
        c := (s.readVal s.sp).getLsbD 0 } ∧
    storesNothing s t ∧ readsAll s t [s.sp, s.sp + 1, s.sp + 2, s.sp + 3, s.sp + 4] ∧ keepsLines s t

/-- 60_exceptions.md R249, R151: RTI undoes an interrupt entry and a trap: where the frame lies in ordinary
writable memory, RTI right after the entry restores CC with I, A, X, Y, PC and SP.  After a trap PC is past
the illegal opcode, as it was when the trap was taken.  The trap clause holds for every opcode byte the
constructor can carry; the decoder gives it the six illegal ones only (log entry 13). -/
def Obligations.ReturnRestoresWhatEntrySaved : Prop :=
  ∀ s, s.frameFits →
    (s.boundary.reset = .idle → s.interruptTaken = true →
      ∃ t u, step s = .next t ∧ exec .rti t = .next u ∧
        u.hasRegisters s.a s.x s.y s.sp s.pc s.cc ∧ storesNothing t u ∧ u.portOut = s.portOut) ∧
    (∀ op, ∃ t u, exec (.illegal op) s = .next t ∧ exec .rti t = .next u ∧
      u.hasRegisters s.a s.x s.y s.sp s.pc s.cc ∧ storesNothing t u ∧ u.portOut = s.portOut)

/-- R251, R245: a request that stays up is taken again right after RTI, with the resumed PC stacked: no
instruction of the interrupted program runs in between. -/
def Obligations.RequestStillUpIsTakenAgainAfterReturn : Prop :=
  ∀ s up rest, up = { reset := .idle, irq := true } → s.lines = up :: up :: up :: rest →
    s.cc.i = false → s.frameFits → (∀ k ∈ [1, 2, 3, 4, 5], s.sp - k ≠ 0xFD ∧ s.sp - k ≠ s.cell 0xFD) →
    s.cell 0xFD ≠ 0xFB → s.cell 0xFD ≠ 0xFC → s.cell (s.cell 0xFD) = 0x44 →
    ∃ t u v, step s = .next t ∧ step t = .next u ∧ step u = .next v ∧
      u.hasRegisters s.a s.x s.y s.sp s.pc s.cc ∧ v.cell (s.sp - 1) = s.pc ∧
      v.pc = s.cell 0xFD ∧ v.sp = s.sp - 5

/-! ## Flags, memory and addressing -/

/-- 10_state.md R31, R32: CC reads as 000INZVC, and a byte written to it loses bits 7 to 5. -/
def Obligations.FlagByteIsZeroZeroZeroINZVC : Prop :=
  (∀ cc : CC, cc.toByte.getLsbD 4 = cc.i ∧ cc.toByte.getLsbD 3 = cc.n ∧ cc.toByte.getLsbD 2 = cc.z ∧
    cc.toByte.getLsbD 1 = cc.v ∧ cc.toByte.getLsbD 0 = cc.c ∧ cc.toByte.toNat < 32 ∧
    CC.ofByte cc.toByte = cc) ∧
  (∀ b, (CC.ofByte b).toByte = b &&& 0x1F)

/-- 20_memory.md R52, R54, R56: what a read returns after a write: the byte written, at the address itself if
it is no port and accepts a write, and what it returned before everywhere else, the ports among it. -/
def Obligations.ReadAfterWrite : Prop :=
  ∀ (s : State) (a v b : Byte), (s.write a v).readVal b =
    if b = a ∧ s.ordinary a then v else s.readVal b

/-- R52, R55, R56, R57: a read of ordinary memory, the vectors among it, changes nothing; a read of a port
returns the next byte the environment presents there, or the free value of that read (log entry 5), and moves that
port's input on by one and changes nothing else. -/
def Obligations.ReadsChangeOnlyPortInputs : Prop :=
  ∀ (s : State) (a : Byte), (a ≠ 0xFB → a ≠ 0xFC → s.afterRead a = s ∧ s.readVal a = s.cell a) ∧
    s.readVal 0xFB = s.portFB.pending.headD (Config.portIn .fb s.portFB.reads) ∧
    s.readVal 0xFC = s.portFC.pending.headD (Config.portIn .fc s.portFC.reads) ∧
    readsAll s (s.afterRead a) [a] ∧ (s.afterRead a).mem = s.mem ∧
    (s.afterRead a).portOut = s.portOut ∧ keepsLines s (s.afterRead a) ∧
    (s.afterRead a).hasRegisters s.a s.x s.y s.sp s.pc s.cc

/-- 30_encoding.md R86, R88, R89, R91 to R95, 00_scope.md R9: the effective address of each memory mode, as a
number modulo 256, and what the mode does to its index register. -/
def Obligations.EffectiveAddresses : Prop :=
  ∀ (s : State) (n : Byte),
    effectiveAddress (.ab n) s = n ∧
    (effectiveAddress (.ns n) s).toNat = (s.sp.toNat + n.toNat) % 256 ∧
    (effectiveAddress (.nx n) s).toNat = (s.x.toNat + n.toNat) % 256 ∧
    (effectiveAddress (.ny n) s).toNat = (s.y.toNat + n.toNat) % 256 ∧
    (effectiveAddress .ax s).toNat = (s.x.toNat + s.a.toNat) % 256 ∧
    (effectiveAddress .ay s).toNat = (s.y.toNat + s.a.toNat) % 256 ∧
    effectiveAddress .xPostInc s = s.x ∧ (indexX .xPostInc s).toNat = (s.x.toNat + 1) % 256 ∧
    effectiveAddress .xPostDec s = s.x ∧ (indexX .xPostDec s).toNat = (s.x.toNat + 255) % 256 ∧
    effectiveAddress .xPreInc s = indexX .xPreInc s ∧
    (indexX .xPreInc s).toNat = (s.x.toNat + 1) % 256 ∧
    effectiveAddress .xPreDec s = indexX .xPreDec s ∧
    (indexX .xPreDec s).toNat = (s.x.toNat + 255) % 256 ∧
    effectiveAddress .yPostInc s = s.y ∧ (indexY .yPostInc s).toNat = (s.y.toNat + 1) % 256 ∧
    effectiveAddress .yPostDec s = s.y ∧ (indexY .yPostDec s).toNat = (s.y.toNat + 255) % 256 ∧
    effectiveAddress .yPreInc s = indexY .yPreInc s ∧
    (indexY .yPreInc s).toNat = (s.y.toNat + 1) % 256 ∧
    effectiveAddress .yPreDec s = indexY .yPreDec s ∧
    (indexY .yPreDec s).toNat = (s.y.toNat + 255) % 256

/-! ## Load, store and data movement -/

/-- 40_load_store.md R111: LDA in its fifteen modes. -/
def Obligations.LoadA : Prop :=
  (∀ d, codedAs (.lda (.im d)) [0xF0, d] 2) ∧ codedAuto (fun m => .lda (.mem m)) 0xF0 ∧
  ∀ o s, sourceEffect (.lda o) o s (operandValue o s) (operandX o s) (operandY o s) s.sp
    { s.cc with n := (operandValue o s).msb, z := operandValue o s == 0, v := false }

/-- R112, R113, R114: LDX, LDY and LDSP in their five modes. -/
def Obligations.LoadXYSP : Prop :=
  codedSource .ldx 0x90 0xA0 0xB0 0xC0 0xD0 2 ∧ codedSource .ldy 0x91 0xA1 0xB1 0xC1 0xD1 2 ∧
  codedSource .ldsp 0x92 0xA2 0xB2 0xC2 0xD2 2 ∧
  ∀ o s, o.isBinary = true →
    sourceEffect (.ldx o) o s s.a (operandValue o s) s.y s.sp
      { s.cc with n := (operandValue o s).msb, z := operandValue o s == 0, v := false } ∧
    sourceEffect (.ldy o) o s s.a s.x (operandValue o s) s.sp
      { s.cc with n := (operandValue o s).msb, z := operandValue o s == 0, v := false } ∧
    sourceEffect (.ldsp o) o s s.a s.x s.y (operandValue o s)
      { s.cc with n := (operandValue o s).msb, z := operandValue o s == 0, v := false }

/-- R115, R116, R117: LEAX, LEAY and LEASP give the sum itself to the register; no access, no flag. -/
def Obligations.LoadEffectiveAddress : Prop :=
  (∀ n, codedAs (.leax (.nx n)) [0xCC, n] 4 ∧ codedAs (.leax (.ns n)) [0xDC, n] 4 ∧
    codedAs (.leay (.ny n)) [0xCD, n] 4 ∧ codedAs (.leay (.ns n)) [0xDD, n] 4 ∧
    codedAs (.leasp (.ns n)) [0xBE, n] 4 ∧ codedAs (.leasp (.nx n)) [0xCE, n] 4 ∧
    codedAs (.leasp (.ny n)) [0xDE, n] 4) ∧
  ∀ n s,
    inherentEffect (.leax (.nx n)) s s.a (s.x + n) s.y s.sp s.pc s.cc ∧
    inherentEffect (.leax (.ns n)) s s.a (s.sp + n) s.y s.sp s.pc s.cc ∧
    inherentEffect (.leay (.ny n)) s s.a s.x (s.y + n) s.sp s.pc s.cc ∧
    inherentEffect (.leay (.ns n)) s s.a s.x (s.sp + n) s.sp s.pc s.cc ∧
    inherentEffect (.leasp (.ns n)) s s.a s.x s.y (s.sp + n) s.pc s.cc ∧
    inherentEffect (.leasp (.nx n)) s s.a s.x s.y (s.x + n) s.pc s.cc ∧
    inherentEffect (.leasp (.ny n)) s s.a s.x s.y (s.y + n) s.pc s.cc

/-- R118: STA in its fourteen modes. -/
def Obligations.StoreA : Prop :=
  codedAuto .sta 0xE0 ∧ ∀ m s, storeEffect (.sta m) m s s.a s.cc

/-- R119, R120, R121: STX, STY and STSP in their six modes. -/
def Obligations.StoreXYSP : Prop :=
  codedMem .stx 0x30 0x40 0x50 0x60 0x70 0x80 3 ∧ codedMem .sty 0x31 0x41 0x51 0x61 0x71 0x81 3 ∧
  codedMem .stsp 0x32 0x42 0x52 0x62 0x72 0x82 3 ∧
  ∀ m s, m.isPlain = true →
    storeEffect (.stx m) m s s.x s.cc ∧ storeEffect (.sty m) m s s.y s.cc ∧ storeEffect (.stsp m) m s s.sp s.cc

/-- 41_data_movement.md R125, R126, R128: TFR A,CC, TFR CC,A and EXG A,CC; a second EXG A,CC restores CC and
leaves A without bits 7 to 5. -/
def Obligations.TransferAndExchangeFlags : Prop :=
  codedAs .tfrACC [0x18] 2 ∧ codedAs .tfrCCA [0x19] 2 ∧ codedAs .exgACC [0x9F] 4 ∧
  ∀ s,
    inherentEffect .tfrACC s s.a s.x s.y s.sp s.pc
      { i := s.a.getLsbD 4, n := s.a.getLsbD 3, z := s.a.getLsbD 2, v := s.a.getLsbD 1,
        c := s.a.getLsbD 0 } ∧
    inherentEffect .tfrCCA s s.cc.toByte s.x s.y s.sp s.pc s.cc ∧
    inherentEffect .exgACC s s.cc.toByte s.x s.y s.sp s.pc
      { i := s.a.getLsbD 4, n := s.a.getLsbD 3, z := s.a.getLsbD 2, v := s.a.getLsbD 1,
        c := s.a.getLsbD 0 } ∧
    ∃ t, execAll [.exgACC, .exgACC] s = .next t ∧ t.a = s.a &&& 0x1F ∧ t.cc = s.cc

/-- R127, R129, 47_stack_misc.md R219: the six TFR and the three EXG between X, Y and SP, and NOP. -/
def Obligations.TransferAndExchangeRegisters : Prop :=
  codedAs .tfrXY [0x1A] 2 ∧ codedAs .tfrYX [0x1B] 2 ∧ codedAs .tfrXSP [0x1C] 2 ∧
  codedAs .tfrSPX [0x1D] 2 ∧ codedAs .tfrYSP [0x1E] 2 ∧ codedAs .tfrSPY [0x1F] 2 ∧
  codedAs .exgXY [0xAF] 4 ∧ codedAs .exgXSP [0xBF] 4 ∧ codedAs .exgYSP [0xCF] 4 ∧
  codedAs .nop [0x00] 2 ∧
  ∀ s,
    inherentEffect .tfrXY s s.a s.x s.x s.sp s.pc s.cc ∧
    inherentEffect .tfrYX s s.a s.y s.y s.sp s.pc s.cc ∧
    inherentEffect .tfrXSP s s.a s.x s.y s.x s.pc s.cc ∧
    inherentEffect .tfrSPX s s.a s.sp s.y s.sp s.pc s.cc ∧
    inherentEffect .tfrYSP s s.a s.x s.y s.y s.pc s.cc ∧
    inherentEffect .tfrSPY s s.a s.x s.sp s.sp s.pc s.cc ∧
    inherentEffect .exgXY s s.a s.y s.x s.sp s.pc s.cc ∧
    inherentEffect .exgXSP s s.a s.sp s.y s.x s.pc s.cc ∧
    inherentEffect .exgYSP s s.a s.x s.sp s.y s.pc s.cc ∧
    inherentEffect .nop s s.a s.x s.y s.sp s.pc s.cc

/-! ## Flow control -/

/-- 42_flow_control.md R131: JMP in its five modes goes to EA itself; no access, no flag. -/
def Obligations.JumpGoesToTheEffectiveAddress : Prop :=
  (∀ n, codedAs (.jmp (.ab n)) [0x33, n] 2 ∧ codedAs (.jmp (.nx n)) [0x53, n] 4 ∧
    codedAs (.jmp (.ny n)) [0x73, n] 4) ∧
  codedAs (.jmp .ax) [0x63] 4 ∧ codedAs (.jmp .ay) [0x83] 4 ∧
  (∀ n s, (Instr.jmp (.ns n)).wf = false ∧
    inherentEffect (.jmp (.ab n)) s s.a s.x s.y s.sp n s.cc ∧
    inherentEffect (.jmp (.nx n)) s s.a s.x s.y s.sp (s.x + n) s.cc ∧
    inherentEffect (.jmp (.ny n)) s s.a s.x s.y s.sp (s.y + n) s.cc ∧
    inherentEffect (.jmp .ax) s s.a s.x s.y s.sp (s.x + s.a) s.cc ∧
    inherentEffect (.jmp .ay) s s.a s.x s.y s.sp (s.y + s.a) s.cc)

/-- R132, R134: JSR in its five modes and BSR push the address of the next instruction and go to EA or to
PC + n. -/
def Obligations.SubroutineCallPushesTheReturnAddress : Prop :=
  (∀ n, codedAs (.jsr (.ab n)) [0x34, n] 4 ∧ codedAs (.jsr (.nx n)) [0x54, n] 5 ∧
    codedAs (.jsr (.ny n)) [0x74, n] 5 ∧ codedAs (.bsr n) [0x20, n] 5) ∧
  codedAs (.jsr .ax) [0x64] 5 ∧ codedAs (.jsr .ay) [0x84] 5 ∧
  (∀ n s, (Instr.jsr (.ns n)).wf = false ∧
    pushEffect (.jsr (.ab n)) s s.pc n ∧ pushEffect (.jsr (.nx n)) s s.pc (s.x + n) ∧
    pushEffect (.jsr (.ny n)) s s.pc (s.y + n) ∧ pushEffect (.jsr .ax) s s.pc (s.x + s.a) ∧
    pushEffect (.jsr .ay) s s.pc (s.y + s.a) ∧ pushEffect (.bsr n) s s.pc (s.pc + n))

/-- R130, R133, 30_encoding.md R87, R97: BRA always goes to PC + n modulo 256; the offset that the assembler
stores for a branch at `here` takes it to the address written, modulo 256; offset $FE is the branch to
itself. -/
def Obligations.BranchAlways : Prop :=
  (∀ n, codedAs (.bra n) [0x21, n] 4) ∧
  (∀ n s, branchEffect (.bra n) n True s) ∧
  (∀ (here : Byte) (target : Int) (s : State), s.pc = here + 2 →
    ∃ t, exec (.bra (operandByte .pc here target)) s = .next t ∧
      (t.pc.toNat : Int) = target % 256) ∧
  (∀ s : State, ∃ t, exec (.bra 0xFE) (s.setPC (s.pc + 2)) = .next t ∧ t.pc = s.pc)

/-- R136 to R143: the branches on one flag; BHS is another name of BCC and BLO of BCS. -/
def Obligations.BranchOnOneFlag : Prop :=
  canonicalMnemonic "BHS" = "BCC" ∧ canonicalMnemonic "BLO" = "BCS" ∧
  (∀ n, codedAs (.bmi n) [0x22, n] 4 ∧ codedAs (.bpl n) [0x23, n] 4 ∧ codedAs (.beq n) [0x24, n] 4 ∧
    codedAs (.bne n) [0x25, n] 4 ∧ codedAs (.bvs n) [0x26, n] 4 ∧ codedAs (.bvc n) [0x27, n] 4 ∧
    codedAs (.bcs n) [0x28, n] 4 ∧ codedAs (.bcc n) [0x29, n] 4) ∧
  ∀ n s,
    branchEffect (.bmi n) n (s.cc.n = true) s ∧ branchEffect (.bpl n) n (s.cc.n = false) s ∧
    branchEffect (.beq n) n (s.cc.z = true) s ∧ branchEffect (.bne n) n (s.cc.z = false) s ∧
    branchEffect (.bvs n) n (s.cc.v = true) s ∧ branchEffect (.bvc n) n (s.cc.v = false) s ∧
    branchEffect (.bcs n) n (s.cc.c = true) s ∧ branchEffect (.bcc n) n (s.cc.c = false) s

/-- R144 to R149: the branches on combinations of flags. -/
def Obligations.BranchOnSeveralFlags : Prop :=
  (∀ n, codedAs (.bhi n) [0x2A, n] 4 ∧ codedAs (.bls n) [0x2B, n] 4 ∧ codedAs (.bgt n) [0x2C, n] 4 ∧
    codedAs (.bge n) [0x2D, n] 4 ∧ codedAs (.ble n) [0x2E, n] 4 ∧ codedAs (.blt n) [0x2F, n] 4) ∧
  ∀ n s,
    branchEffect (.bhi n) n (s.cc.c = false ∧ s.cc.z = false) s ∧
    branchEffect (.bls n) n (s.cc.c = true ∨ s.cc.z = true) s ∧
    branchEffect (.bgt n) n (s.cc.n = s.cc.v ∧ s.cc.z = false) s ∧
    branchEffect (.bge n) n (s.cc.n = s.cc.v) s ∧
    branchEffect (.ble n) n (s.cc.n ≠ s.cc.v ∨ s.cc.z = true) s ∧
    branchEffect (.blt n) n (s.cc.n ≠ s.cc.v) s

/-- R150: RTS pulls PC. -/
def Obligations.ReturnFromSubroutinePullsPC : Prop :=
  codedAs .rts [0x43] 2 ∧ ∀ s, pullEffect .rts s s.a s.x s.y (s.readVal s.sp) s.cc

/-- R132, R134, R150: RTS right after a call comes back to the instruction after the call, with SP as before
it, where the return address lies in ordinary writable memory. -/
def Obligations.ReturnComesBackFromTheCall : Prop :=
  ∀ s : State, s.ordinary (s.sp - 1) → ∀ m n,
    (∃ t u, exec (.jsr m) s = .next t ∧ exec .rts t = .next u ∧
      u.hasRegisters s.a s.x s.y s.sp s.pc s.cc) ∧
    (∃ t u, exec (.bsr n) s = .next t ∧ exec .rts t = .next u ∧
      u.hasRegisters s.a s.x s.y s.sp s.pc s.cc)

/-! ## Arithmetic -/

/-- 43_arithmetic.md R155, R156: ADDA and ADCA in their five modes: the sum modulo 256, C its ninth bit, V by
the signs. -/
def Obligations.AddToA : Prop :=
  codedSource .adda 0x96 0xA6 0xB6 0xC6 0xD6 4 ∧ codedSource .adca 0x95 0xA5 0xB5 0xC5 0xD5 4 ∧
  ∀ o s, o.isBinary = true → ∀ v, v = operandValue o s →
    (∀ r, r = s.a + v →
      sourceEffect (.adda o) o s r s.x s.y s.sp
        { s.cc with n := r.msb, z := r == 0, v := s.a.msb == v.msb && r.msb != s.a.msb,
                    c := decide (256 ≤ s.a.toNat + v.toNat) }) ∧
    (∀ r, r = s.a + v + (if s.cc.c then 1 else 0) →
      sourceEffect (.adca o) o s r s.x s.y s.sp
        { s.cc with n := r.msb, z := r == 0, v := s.a.msb == v.msb && r.msb != s.a.msb,
                    c := decide (256 ≤ s.a.toNat + v.toNat + if s.cc.c then 1 else 0) })

/-- R157, R158: SUBA and SBCA in their five modes: the difference modulo 256, C the borrow, V by the signs. -/
def Obligations.SubtractFromA : Prop :=
  codedSource .suba 0x94 0xA4 0xB4 0xC4 0xD4 4 ∧ codedSource .sbca 0x93 0xA3 0xB3 0xC3 0xD3 4 ∧
  ∀ o s, o.isBinary = true → ∀ v, v = operandValue o s →
    (∀ r, r = s.a - v →
      sourceEffect (.suba o) o s r s.x s.y s.sp
        { s.cc with n := r.msb, z := r == 0, v := s.a.msb != v.msb && r.msb != s.a.msb,
                    c := decide (s.a.toNat < v.toNat) }) ∧
    (∀ r, r = s.a - v - (if s.cc.c then 1 else 0) →
      sourceEffect (.sbca o) o s r s.x s.y s.sp
        { s.cc with n := r.msb, z := r == 0, v := s.a.msb != v.msb && r.msb != s.a.msb,
                    c := decide (s.a.toNat < v.toNat + if s.cc.c then 1 else 0) })

/-- R159, R160, 20_memory.md R61: CLRA, and CLR in its six modes: N Z V C become 0 1 0 0; CLR writes and does not read. -/
def Obligations.ClearAOrMemory : Prop :=
  codedAs .clra [0x05] 3 ∧ codedMem .clr 0x35 0x45 0x55 0x65 0x75 0x85 3 ∧
  ∀ s,
    inherentEffect .clra s 0 s.x s.y s.sp s.pc
      { s.cc with n := false, z := true, v := false, c := false } ∧
    ∀ m, m.isPlain = true →
      storeEffect (.clr m) m s 0 { s.cc with n := false, z := true, v := false, c := false }

/-- R161, R162: NEGA and NEG: the two's complement; V iff the old value is $80, C iff it is not zero. -/
def Obligations.NegateAOrMemory : Prop :=
  codedAs .nega [0x06] 3 ∧ codedMem .neg 0x36 0x46 0x56 0x66 0x76 0x86 4 ∧
  ∀ s,
    (∀ r, r = -s.a →
      inherentEffect .nega s r s.x s.y s.sp s.pc
        { s.cc with n := r.msb, z := s.a == 0, v := s.a == 0x80, c := s.a != 0 }) ∧
    ∀ m old r, m.isPlain = true → old = s.readVal (effectiveAddress m s) → r = -old →
      modifyEffect (.neg m) m s r
        { s.cc with n := r.msb, z := old == 0, v := old == 0x80, c := old != 0 }

/-- R163 to R166: DECA, DEC, INCA and INC: V iff the old value is $80 ($7F for INC), C kept. -/
def Obligations.IncrementAndDecrement : Prop :=
  codedAs .deca [0x08] 3 ∧ codedMem .dec 0x38 0x48 0x58 0x68 0x78 0x88 4 ∧
  codedAs .inca [0x07] 3 ∧ codedMem .inc 0x37 0x47 0x57 0x67 0x77 0x87 4 ∧
  ∀ s,
    inherentEffect .deca s (s.a - 1) s.x s.y s.sp s.pc
      { s.cc with n := (s.a - 1).msb, z := s.a == 1, v := s.a == 0x80 } ∧
    inherentEffect .inca s (s.a + 1) s.x s.y s.sp s.pc
      { s.cc with n := (s.a + 1).msb, z := s.a == 0xFF, v := s.a == 0x7F } ∧
    ∀ m old, m.isPlain = true → old = s.readVal (effectiveAddress m s) →
      modifyEffect (.dec m) m s (old - 1)
        { s.cc with n := (old - 1).msb, z := old == 1, v := old == 0x80 } ∧
      modifyEffect (.inc m) m s (old + 1)
        { s.cc with n := (old + 1).msb, z := old == 0xFF, v := old == 0x7F }

/-! ## Test and compare -/

/-- 44_test.md R176 to R179: CMPA, CMPX, CMPY and CMPSP: the flags of the subtraction, and no register. -/
def Obligations.CompareSetsTheFlagsOfTheDifference : Prop :=
  codedSource .cmpa 0x97 0xA7 0xB7 0xC7 0xD7 3 ∧
  (∀ d, codedAs (.cmpx (.im d)) [0x9C, d] 3 ∧ codedAs (.cmpx (.mem (.ab d))) [0xAC, d] 4 ∧
    codedAs (.cmpx (.mem (.ns d))) [0xBC, d] 4 ∧ codedAs (.cmpy (.im d)) [0x9D, d] 3 ∧
    codedAs (.cmpy (.mem (.ab d))) [0xAD, d] 4 ∧ codedAs (.cmpy (.mem (.ns d))) [0xBD, d] 4 ∧
    codedAs (.cmpsp (.im d)) [0x9E, d] 3 ∧ codedAs (.cmpsp (.mem (.ab d))) [0xAE, d] 4) ∧
  ∀ o s i reg, (i, reg) ∈ [(Instr.cmpa o, s.a), (.cmpx o, s.x), (.cmpy o, s.y), (.cmpsp o, s.sp)] →
    i.wf = true → ∀ v r, v = operandValue o s → r = reg - v →
      sourceEffect i o s s.a s.x s.y s.sp
        { s.cc with n := r.msb, z := r == 0, v := reg.msb != v.msb && r.msb != reg.msb,
                    c := decide (reg.toNat < v.toNat) }

/-- R175: after a comparison of a register with an operand the branches read as comparisons of the two,
unsigned and signed, for every pair of values. -/
def Obligations.BranchesAfterCompareAreComparisons : Prop :=
  ∀ o s i reg, (i, reg) ∈ [(Instr.cmpa o, s.a), (.cmpx o, s.x), (.cmpy o, s.y), (.cmpsp o, s.sp)] →
    i.wf = true → ∃ t, exec i s = .next t ∧ branchesCompare t reg (operandValue o s)

/-- R180, R181, R182, 20_memory.md R61: BITA, TSTA and TST write flags only; TST reads its operand once and
does not write it. -/
def Obligations.BitTestAndTest : Prop :=
  codedSource .bita 0x98 0xA8 0xB8 0xC8 0xD8 3 ∧ codedAs .tsta [0x09] 2 ∧
  codedMem .tst 0x39 0x49 0x59 0x69 0x79 0x89 3 ∧
  ∀ s,
    (∀ o r, o.isBinary = true → r = s.a &&& operandValue o s →
      sourceEffect (.bita o) o s s.a s.x s.y s.sp
        { s.cc with n := r.msb, z := r == 0, v := false }) ∧
    inherentEffect .tsta s s.a s.x s.y s.sp s.pc
      { s.cc with n := s.a.msb, z := s.a == 0, v := false, c := false } ∧
    ∀ m r, m.isPlain = true → r = s.readVal (effectiveAddress m s) →
      sourceEffect (.tst m) (.mem m) s s.a s.x s.y s.sp
        { s.cc with n := r.msb, z := r == 0, v := false, c := false }

/-! ## Logic -/

/-- 45_logic.md R185, R186, R189: ANDA, ORA and EORA, bit by bit; V cleared, C kept. -/
def Obligations.LogicOnA : Prop :=
  codedSource .anda 0x99 0xA9 0xB9 0xC9 0xD9 4 ∧ codedSource .ora 0x9A 0xAA 0xBA 0xCA 0xDA 4 ∧
  codedSource .eora 0x9B 0xAB 0xBB 0xCB 0xDB 4 ∧
  ∀ o s r, o.isBinary = true → ∀ v, v = operandValue o s →
    ((∀ k, r.getLsbD k = (s.a.getLsbD k && v.getLsbD k)) →
      sourceEffect (.anda o) o s r s.x s.y s.sp
        { s.cc with n := r.msb, z := r == 0, v := false }) ∧
    ((∀ k, r.getLsbD k = (s.a.getLsbD k || v.getLsbD k)) →
      sourceEffect (.ora o) o s r s.x s.y s.sp
        { s.cc with n := r.msb, z := r == 0, v := false }) ∧
    ((∀ k, r.getLsbD k = (s.a.getLsbD k ^^ v.getLsbD k)) →
      sourceEffect (.eora o) o s r s.x s.y s.sp
        { s.cc with n := r.msb, z := r == 0, v := false })

/-- R187, R188: ANDCC clears the flags where the mask holds a zero, ORCC sets them where it holds a one. -/
def Obligations.MaskTheFlags : Prop :=
  (∀ n, codedAs (.andcc n) [0x01, n] 4 ∧ codedAs (.orcc n) [0x02, n] 4) ∧
  ∀ n s,
    inherentEffect (.andcc n) s s.a s.x s.y s.sp s.pc
      { i := s.cc.i && n.getLsbD 4, n := s.cc.n && n.getLsbD 3, z := s.cc.z && n.getLsbD 2,
        v := s.cc.v && n.getLsbD 1, c := s.cc.c && n.getLsbD 0 } ∧
    inherentEffect (.orcc n) s s.a s.x s.y s.sp s.pc
      { i := s.cc.i || n.getLsbD 4, n := s.cc.n || n.getLsbD 3, z := s.cc.z || n.getLsbD 2,
        v := s.cc.v || n.getLsbD 1, c := s.cc.c || n.getLsbD 0 }

/-- R190, R191: COMA and COM invert every bit; V cleared, C kept. -/
def Obligations.ComplementAOrMemory : Prop :=
  codedAs .coma [0x0A] 3 ∧ codedMem .com 0x3A 0x4A 0x5A 0x6A 0x7A 0x8A 4 ∧
  ∀ s,
    (∀ r, r.toNat = 255 - s.a.toNat →
      inherentEffect .coma s r s.x s.y s.sp s.pc
        { s.cc with n := r.msb, z := r == 0, v := false }) ∧
    ∀ m r, m.isPlain = true → r.toNat = 255 - (s.readVal (effectiveAddress m s)).toNat →
      modifyEffect (.com m) m s r { s.cc with n := r.msb, z := r == 0, v := false }

/-! ## Shift and rotate -/

/-- 46_shift_rotate.md R196 to R201: ASR halves a signed byte rounding down, LSL doubles a byte, LSR halves an
unsigned byte; C is the bit shifted out; ASLA is another name of LSLA and ASL of LSL. -/
def Obligations.ShiftAOrMemory : Prop :=
  canonicalMnemonic "ASLA" = "LSLA" ∧ canonicalMnemonic "ASL" = "LSL" ∧
  codedAs .asra [0x0F] 3 ∧ codedMem .asr 0x3F 0x4F 0x5F 0x6F 0x7F 0x8F 4 ∧
  codedAs .lsla [0x0B] 3 ∧ codedMem .lsl 0x3B 0x4B 0x5B 0x6B 0x7B 0x8B 4 ∧
  codedAs .lsra [0x0C] 3 ∧ codedMem .lsr 0x3C 0x4C 0x5C 0x6C 0x7C 0x8C 4 ∧
  ∀ s,
    (∀ r : Byte, r.toInt = s.a.toInt / 2 →
      inherentEffect .asra s r s.x s.y s.sp s.pc
        { s.cc with n := s.a.msb, z := r == 0, v := false, c := s.a.getLsbD 0 }) ∧
    (∀ r : Byte, r.toNat = 2 * s.a.toNat % 256 →
      inherentEffect .lsla s r s.x s.y s.sp s.pc
        { s.cc with n := s.a.getLsbD 6, z := r == 0, v := s.a.getLsbD 7 ^^ s.a.getLsbD 6,
                    c := s.a.getLsbD 7 }) ∧
    (∀ r : Byte, r.toNat = s.a.toNat / 2 →
      inherentEffect .lsra s r s.x s.y s.sp s.pc
        { s.cc with n := false, z := r == 0, v := s.a.getLsbD 7, c := s.a.getLsbD 0 }) ∧
    ∀ m old, m.isPlain = true → old = s.readVal (effectiveAddress m s) →
      (∀ r : Byte, r.toInt = old.toInt / 2 →
        modifyEffect (.asr m) m s r
          { s.cc with n := old.msb, z := r == 0, v := false, c := old.getLsbD 0 }) ∧
      (∀ r : Byte, r.toNat = 2 * old.toNat % 256 →
        modifyEffect (.lsl m) m s r
          { s.cc with n := old.getLsbD 6, z := r == 0, v := old.getLsbD 7 ^^ old.getLsbD 6,
                      c := old.getLsbD 7 }) ∧
      (∀ r : Byte, r.toNat = old.toNat / 2 →
        modifyEffect (.lsr m) m s r
          { s.cc with n := false, z := r == 0, v := old.getLsbD 7, c := old.getLsbD 0 })

/-- R202 to R205: ROL and ROR move the byte by one place with the old C shifted in and C the bit shifted
out. -/
def Obligations.RotateAOrMemory : Prop :=
  codedAs .rola [0x0D] 3 ∧ codedMem .rol 0x3D 0x4D 0x5D 0x6D 0x7D 0x8D 4 ∧
  codedAs .rora [0x0E] 3 ∧ codedMem .ror 0x3E 0x4E 0x5E 0x6E 0x7E 0x8E 4 ∧
  ∀ s,
    (∀ r : Byte, r.toNat = 2 * s.a.toNat % 256 + (if s.cc.c then 1 else 0) →
      inherentEffect .rola s r s.x s.y s.sp s.pc
        { s.cc with n := s.a.getLsbD 6, z := r == 0, v := s.a.getLsbD 7 ^^ s.a.getLsbD 6,
                    c := s.a.getLsbD 7 }) ∧
    (∀ r : Byte, r.toNat = s.a.toNat / 2 + (if s.cc.c then 128 else 0) →
      inherentEffect .rora s r s.x s.y s.sp s.pc
        { s.cc with n := s.cc.c, z := r == 0, v := s.a.getLsbD 7 ^^ s.cc.c,
                    c := s.a.getLsbD 0 }) ∧
    ∀ m old, m.isPlain = true → old = s.readVal (effectiveAddress m s) →
      (∀ r : Byte, r.toNat = 2 * old.toNat % 256 + (if s.cc.c then 1 else 0) →
        modifyEffect (.rol m) m s r
          { s.cc with n := old.getLsbD 6, z := r == 0, v := old.getLsbD 7 ^^ old.getLsbD 6,
                      c := old.getLsbD 7 }) ∧
      (∀ r : Byte, r.toNat = old.toNat / 2 + (if s.cc.c then 128 else 0) →
        modifyEffect (.ror m) m s r
          { s.cc with n := s.cc.c, z := r == 0, v := old.getLsbD 7 ^^ s.cc.c,
                      c := old.getLsbD 0 })

/-- R202, R204: nine ROLA in a row, or nine RORA, restore A and C. -/
def Obligations.NineRotationsRestore : Prop :=
  ∀ s, (∃ t, execAll (List.replicate 9 .rola) s = .next t ∧ t.a = s.a ∧ t.cc.c = s.cc.c) ∧
    (∃ t, execAll (List.replicate 9 .rora) s = .next t ∧ t.a = s.a ∧ t.cc.c = s.cc.c)

/-- R206: two byte shifts make a 16-bit shift: LSL low, ROL high doubles the word; LSR high, ROR low halves
it as an unsigned number; ASR high, ROR low halves it as a signed number, rounding down; C is the bit
shifted out. -/
def Obligations.ByteShiftsMakeWordShifts : Prop :=
  ∀ (s : State) (high low : Byte), s.ordinary high → s.ordinary low → high ≠ low →
    (∃ t, execAll [.lsl (.ab low), .rol (.ab high)] s = .next t ∧
      t.word high low = 2 * s.word high low % 65536 ∧
      t.cc.c = decide (32768 ≤ s.word high low)) ∧
    (∃ t, execAll [.lsr (.ab high), .ror (.ab low)] s = .next t ∧
      t.word high low = s.word high low / 2 ∧ t.cc.c = decide (s.word high low % 2 = 1)) ∧
    (∃ t, execAll [.asr (.ab high), .ror (.ab low)] s = .next t ∧
      t.word high low = s.word high low / 2 + (if 32768 ≤ s.word high low then 32768 else 0) ∧
      t.cc.c = decide (s.word high low % 2 = 1))

/-! ## Stack -/

/-- 47_stack_misc.md R210 to R213: PSHA, PSHX, PSHY and PSHCC. -/
def Obligations.PushStoresBelowTheStackPointer : Prop :=
  codedAs .psha [0x10] 3 ∧ codedAs .pshx [0x11] 3 ∧ codedAs .pshy [0x12] 3 ∧
  codedAs .pshcc [0x13] 3 ∧
  ∀ s, pushEffect .psha s s.a s.pc ∧ pushEffect .pshx s s.x s.pc ∧ pushEffect .pshy s s.y s.pc ∧
    ∀ b : Byte, b.toNat < 32 → b.getLsbD 4 = s.cc.i → b.getLsbD 3 = s.cc.n → b.getLsbD 2 = s.cc.z →
      b.getLsbD 1 = s.cc.v → b.getLsbD 0 = s.cc.c → pushEffect .pshcc s b s.pc

/-- R214 to R217: PULA, PULX and PULY set no flag; PULCC sets all five. -/
def Obligations.PullLoadsFromTheStackPointer : Prop :=
  codedAs .pula [0x14] 3 ∧ codedAs .pulx [0x15] 3 ∧ codedAs .puly [0x16] 3 ∧
  codedAs .pulcc [0x17] 3 ∧
  ∀ s b, b = s.readVal s.sp →
    pullEffect .pula s b s.x s.y s.pc s.cc ∧ pullEffect .pulx s s.a b s.y s.pc s.cc ∧
    pullEffect .puly s s.a s.x b s.pc s.cc ∧
    pullEffect .pulcc s s.a s.x s.y s.pc
      { i := b.getLsbD 4, n := b.getLsbD 3, z := b.getLsbD 2, v := b.getLsbD 1, c := b.getLsbD 0 }

/-! ## The data path and the end of a run -/

/-- 49_alu_control.md R230, R231, R235, R237: the ALU function, the carry in and the flag selectors that R231
reads for each instruction give that instruction's result and flags. -/
def Obligations.AluServesTheInstructions : Prop :=
  ∀ (a b bus : Byte) (cc : CC),
    computeAdd a b cc = aluPass 0b1011 (allFlags 0b00) a b bus cc ∧
    computeAdc a b cc = aluPass 0b1011 (allFlags 0b10) a b bus cc ∧
    computeSub a b cc = aluPass 0b1100 (allFlags 0b01) a b bus cc ∧
    computeSbc a b cc = aluPass 0b1100 (allFlags 0b11) a b bus cc ∧
    computeNeg a cc = aluPass 0b0101 (allFlags 0b01) a b bus cc ∧
    computeCom a cc = aluPass 0b0101 (clearV 0b00) a b bus cc ∧
    computeInc a cc = aluPass 0b1001 (keepC 0b01) a b bus cc ∧
    computeDec a cc = aluPass 0b1010 (keepC 0b00) a b bus cc ∧
    flagsTst a cc = (aluPass 0b1001 (clearVC 0b00) a b bus cc).cc ∧
    computeClr cc = aluPass 0b0000 (allFlags 0b00) a b bus cc ∧
    computeAnd a b cc = aluPass 0b0111 (clearV 0b00) a b bus cc ∧
    computeOr a b cc = aluPass 0b0110 (clearV 0b00) a b bus cc ∧
    computeEor a b cc = aluPass 0b1000 (clearV 0b00) a b bus cc ∧
    computeLsl a cc = aluPass 0b1101 (allFlags 0b00) a b bus cc ∧
    computeRol a cc = aluPass 0b1101 (allFlags 0b10) a b bus cc ∧
    computeLsr a cc = aluPass 0b1110 (allFlags 0b00) a b bus cc ∧
    computeRor a cc = aluPass 0b1110 (allFlags 0b10) a b bus cc ∧
    computeAsr a cc = aluPass 0b1111 (allFlags 0b00) a b bus cc ∧
    cc.ofLogic b = (aluPass 0b0100 (clearV 0b00) a b bus cc).cc ∧
    CC.ofByte bus = (aluPass 0b0100 fromBus a b bus cc).cc ∧
    { cc with i := true } = (aluPass 0b0001 setOnlyI a b bus cc).cc

/-- 70_reset_and_hazards.md R292, 42_flow_control.md R133: where nothing can disturb it, `BRA` to itself in
memory, and `JMP` to its own address, end the run; and a run that has ended stays ended: every later state
differs from it in nothing but the boundaries behind it. -/
def Obligations.EndedRunStaysEnded : Prop :=
  (∀ s : State, s.undisturbed = true → s.pc ≠ 0xFA → s.pc ≠ 0xFB → s.pc ≠ 0xFC →
    (s.cell s.pc = 0x21 ∧ s.cell (s.pc + 1) = 0xFE ∨
      s.cell s.pc = 0x33 ∧ s.cell (s.pc + 1) = s.pc) → s.runEnded = true) ∧
  (∀ (k : Nat) (s : State), s.runEnded = true →
    ∃ t, Sys2Proof.core.run k s = .next t ∧ t.runEnded = true ∧
      t = { s with lines := s.lines.drop k })
end

