-- ==== Sys2Proof/Laws/State.lean ====
section
/-! SUPPORT. One lemma for each field under each update of State, so that no proof unfolds a record
update. -/

namespace Sys2Proof.Machine

section updates

variable (s : State) (b v : Byte) (w : CC) (p : Port) (q : PortInput)

@[simp] theorem State.setA_a : (s.setA b).a = b := rfl
@[simp] theorem State.setA_x : (s.setA b).x = s.x := rfl
@[simp] theorem State.setA_y : (s.setA b).y = s.y := rfl
@[simp] theorem State.setA_sp : (s.setA b).sp = s.sp := rfl
@[simp] theorem State.setA_pc : (s.setA b).pc = s.pc := rfl
@[simp] theorem State.setA_cc : (s.setA b).cc = s.cc := rfl
@[simp] theorem State.setA_mem : (s.setA b).mem = s.mem := rfl
@[simp] theorem State.setA_portFB : (s.setA b).portFB = s.portFB := rfl
@[simp] theorem State.setA_portFC : (s.setA b).portFC = s.portFC := rfl
@[simp] theorem State.setA_portOut : (s.setA b).portOut = s.portOut := rfl
@[simp] theorem State.setA_lines : (s.setA b).lines = s.lines := rfl
@[simp] theorem State.setA_board : (s.setA b).board = s.board := rfl

@[simp] theorem State.setX_a : (s.setX b).a = s.a := rfl
@[simp] theorem State.setX_x : (s.setX b).x = b := rfl
@[simp] theorem State.setX_y : (s.setX b).y = s.y := rfl
@[simp] theorem State.setX_sp : (s.setX b).sp = s.sp := rfl
@[simp] theorem State.setX_pc : (s.setX b).pc = s.pc := rfl
@[simp] theorem State.setX_cc : (s.setX b).cc = s.cc := rfl
@[simp] theorem State.setX_mem : (s.setX b).mem = s.mem := rfl
@[simp] theorem State.setX_portFB : (s.setX b).portFB = s.portFB := rfl
@[simp] theorem State.setX_portFC : (s.setX b).portFC = s.portFC := rfl
@[simp] theorem State.setX_portOut : (s.setX b).portOut = s.portOut := rfl
@[simp] theorem State.setX_lines : (s.setX b).lines = s.lines := rfl
@[simp] theorem State.setX_board : (s.setX b).board = s.board := rfl

@[simp] theorem State.setY_a : (s.setY b).a = s.a := rfl
@[simp] theorem State.setY_x : (s.setY b).x = s.x := rfl
@[simp] theorem State.setY_y : (s.setY b).y = b := rfl
@[simp] theorem State.setY_sp : (s.setY b).sp = s.sp := rfl
@[simp] theorem State.setY_pc : (s.setY b).pc = s.pc := rfl
@[simp] theorem State.setY_cc : (s.setY b).cc = s.cc := rfl
@[simp] theorem State.setY_mem : (s.setY b).mem = s.mem := rfl
@[simp] theorem State.setY_portFB : (s.setY b).portFB = s.portFB := rfl
@[simp] theorem State.setY_portFC : (s.setY b).portFC = s.portFC := rfl
@[simp] theorem State.setY_portOut : (s.setY b).portOut = s.portOut := rfl
@[simp] theorem State.setY_lines : (s.setY b).lines = s.lines := rfl
@[simp] theorem State.setY_board : (s.setY b).board = s.board := rfl

@[simp] theorem State.setSP_a : (s.setSP b).a = s.a := rfl
@[simp] theorem State.setSP_x : (s.setSP b).x = s.x := rfl
@[simp] theorem State.setSP_y : (s.setSP b).y = s.y := rfl
@[simp] theorem State.setSP_sp : (s.setSP b).sp = b := rfl
@[simp] theorem State.setSP_pc : (s.setSP b).pc = s.pc := rfl
@[simp] theorem State.setSP_cc : (s.setSP b).cc = s.cc := rfl
@[simp] theorem State.setSP_mem : (s.setSP b).mem = s.mem := rfl
@[simp] theorem State.setSP_portFB : (s.setSP b).portFB = s.portFB := rfl
@[simp] theorem State.setSP_portFC : (s.setSP b).portFC = s.portFC := rfl
@[simp] theorem State.setSP_portOut : (s.setSP b).portOut = s.portOut := rfl
@[simp] theorem State.setSP_lines : (s.setSP b).lines = s.lines := rfl
@[simp] theorem State.setSP_board : (s.setSP b).board = s.board := rfl

@[simp] theorem State.setPC_a : (s.setPC b).a = s.a := rfl
@[simp] theorem State.setPC_x : (s.setPC b).x = s.x := rfl
@[simp] theorem State.setPC_y : (s.setPC b).y = s.y := rfl
@[simp] theorem State.setPC_sp : (s.setPC b).sp = s.sp := rfl
@[simp] theorem State.setPC_pc : (s.setPC b).pc = b := rfl
@[simp] theorem State.setPC_cc : (s.setPC b).cc = s.cc := rfl
@[simp] theorem State.setPC_mem : (s.setPC b).mem = s.mem := rfl
@[simp] theorem State.setPC_portFB : (s.setPC b).portFB = s.portFB := rfl
@[simp] theorem State.setPC_portFC : (s.setPC b).portFC = s.portFC := rfl
@[simp] theorem State.setPC_portOut : (s.setPC b).portOut = s.portOut := rfl
@[simp] theorem State.setPC_lines : (s.setPC b).lines = s.lines := rfl
@[simp] theorem State.setPC_board : (s.setPC b).board = s.board := rfl

@[simp] theorem State.setCC_a : (s.setCC w).a = s.a := rfl
@[simp] theorem State.setCC_x : (s.setCC w).x = s.x := rfl
@[simp] theorem State.setCC_y : (s.setCC w).y = s.y := rfl
@[simp] theorem State.setCC_sp : (s.setCC w).sp = s.sp := rfl
@[simp] theorem State.setCC_pc : (s.setCC w).pc = s.pc := rfl
@[simp] theorem State.setCC_cc : (s.setCC w).cc = w := rfl
@[simp] theorem State.setCC_mem : (s.setCC w).mem = s.mem := rfl
@[simp] theorem State.setCC_portFB : (s.setCC w).portFB = s.portFB := rfl
@[simp] theorem State.setCC_portFC : (s.setCC w).portFC = s.portFC := rfl
@[simp] theorem State.setCC_portOut : (s.setCC w).portOut = s.portOut := rfl
@[simp] theorem State.setCC_lines : (s.setCC w).lines = s.lines := rfl
@[simp] theorem State.setCC_board : (s.setCC w).board = s.board := rfl

@[simp] theorem State.setCell_a : (s.setCell b v).a = s.a := rfl
@[simp] theorem State.setCell_x : (s.setCell b v).x = s.x := rfl
@[simp] theorem State.setCell_y : (s.setCell b v).y = s.y := rfl
@[simp] theorem State.setCell_sp : (s.setCell b v).sp = s.sp := rfl
@[simp] theorem State.setCell_pc : (s.setCell b v).pc = s.pc := rfl
@[simp] theorem State.setCell_cc : (s.setCell b v).cc = s.cc := rfl
@[simp] theorem State.setCell_mem : (s.setCell b v).mem = s.mem.update b.toNat v := rfl
@[simp] theorem State.setCell_portFB : (s.setCell b v).portFB = s.portFB := rfl
@[simp] theorem State.setCell_portFC : (s.setCell b v).portFC = s.portFC := rfl
@[simp] theorem State.setCell_portOut : (s.setCell b v).portOut = s.portOut := rfl
@[simp] theorem State.setCell_lines : (s.setCell b v).lines = s.lines := rfl
@[simp] theorem State.setCell_board : (s.setCell b v).board = s.board := rfl

@[simp] theorem State.emit_a : (s.emit p v).a = s.a := rfl
@[simp] theorem State.emit_x : (s.emit p v).x = s.x := rfl
@[simp] theorem State.emit_y : (s.emit p v).y = s.y := rfl
@[simp] theorem State.emit_sp : (s.emit p v).sp = s.sp := rfl
@[simp] theorem State.emit_pc : (s.emit p v).pc = s.pc := rfl
@[simp] theorem State.emit_cc : (s.emit p v).cc = s.cc := rfl
@[simp] theorem State.emit_mem : (s.emit p v).mem = s.mem := rfl
@[simp] theorem State.emit_portFB : (s.emit p v).portFB = s.portFB := rfl
@[simp] theorem State.emit_portFC : (s.emit p v).portFC = s.portFC := rfl
@[simp] theorem State.emit_portOut : (s.emit p v).portOut = s.portOut ++ [(p, v)] := rfl
@[simp] theorem State.emit_lines : (s.emit p v).lines = s.lines := rfl
@[simp] theorem State.emit_board : (s.emit p v).board = s.board := rfl

@[simp] theorem State.passBoundary_a : (s.passBoundary).a = s.a := rfl
@[simp] theorem State.passBoundary_x : (s.passBoundary).x = s.x := rfl
@[simp] theorem State.passBoundary_y : (s.passBoundary).y = s.y := rfl
@[simp] theorem State.passBoundary_sp : (s.passBoundary).sp = s.sp := rfl
@[simp] theorem State.passBoundary_pc : (s.passBoundary).pc = s.pc := rfl
@[simp] theorem State.passBoundary_cc : (s.passBoundary).cc = s.cc := rfl
@[simp] theorem State.passBoundary_mem : (s.passBoundary).mem = s.mem := rfl
@[simp] theorem State.passBoundary_portFB : (s.passBoundary).portFB = s.portFB := rfl
@[simp] theorem State.passBoundary_portFC : (s.passBoundary).portFC = s.portFC := rfl
@[simp] theorem State.passBoundary_portOut : (s.passBoundary).portOut = s.portOut := rfl
@[simp] theorem State.passBoundary_lines : (s.passBoundary).lines = s.lines.tail := rfl
@[simp] theorem State.passBoundary_board : (s.passBoundary).board = s.board := rfl

@[simp] theorem State.setPort_a : (s.setPort p q).a = s.a := by cases p <;> rfl
@[simp] theorem State.setPort_x : (s.setPort p q).x = s.x := by cases p <;> rfl
@[simp] theorem State.setPort_y : (s.setPort p q).y = s.y := by cases p <;> rfl
@[simp] theorem State.setPort_sp : (s.setPort p q).sp = s.sp := by cases p <;> rfl
@[simp] theorem State.setPort_pc : (s.setPort p q).pc = s.pc := by cases p <;> rfl
@[simp] theorem State.setPort_cc : (s.setPort p q).cc = s.cc := by cases p <;> rfl
@[simp] theorem State.setPort_mem : (s.setPort p q).mem = s.mem := by cases p <;> rfl
@[simp] theorem State.setPort_portFB_same : (s.setPort .fb q).portFB = q := rfl
@[simp] theorem State.setPort_portFB_other : (s.setPort .fc q).portFB = s.portFB := rfl
@[simp] theorem State.setPort_portFC_same : (s.setPort .fc q).portFC = q := rfl
@[simp] theorem State.setPort_portFC_other : (s.setPort .fb q).portFC = s.portFC := rfl
@[simp] theorem State.setPort_portOut : (s.setPort p q).portOut = s.portOut := by cases p <;> rfl
@[simp] theorem State.setPort_lines : (s.setPort p q).lines = s.lines := by cases p <;> rfl
@[simp] theorem State.setPort_board : (s.setPort p q).board = s.board := by cases p <;> rfl

@[simp] theorem State.port_fb : s.port .fb = s.portFB := rfl
@[simp] theorem State.port_fc : s.port .fc = s.portFC := rfl

end updates

/-! What the derived readings see of an update: `cell` reads `mem`, `port` the port inputs, `writable` the
board. -/

section readings

variable (s : State) (a b v : Byte) (w : CC) (p p' : Port) (q : PortInput)

@[simp] theorem State.setA_cell : (s.setA b).cell a = s.cell a := rfl
@[simp] theorem State.setA_port : (s.setA b).port p' = s.port p' := by cases p' <;> rfl
@[simp] theorem State.setA_portNext : (s.setA b).portNext p' = s.portNext p' := by
  cases p' <;> rfl
@[simp] theorem State.setA_readVal : (s.setA b).readVal a = s.readVal a := by
  simp [State.readVal]
@[simp] theorem State.setA_writable : (s.setA b).writable a = s.writable a := rfl

@[simp] theorem State.setX_cell : (s.setX b).cell a = s.cell a := rfl
@[simp] theorem State.setX_port : (s.setX b).port p' = s.port p' := by cases p' <;> rfl
@[simp] theorem State.setX_portNext : (s.setX b).portNext p' = s.portNext p' := by
  cases p' <;> rfl
@[simp] theorem State.setX_readVal : (s.setX b).readVal a = s.readVal a := by
  simp [State.readVal]
@[simp] theorem State.setX_writable : (s.setX b).writable a = s.writable a := rfl

@[simp] theorem State.setY_cell : (s.setY b).cell a = s.cell a := rfl
@[simp] theorem State.setY_port : (s.setY b).port p' = s.port p' := by cases p' <;> rfl
@[simp] theorem State.setY_portNext : (s.setY b).portNext p' = s.portNext p' := by
  cases p' <;> rfl
@[simp] theorem State.setY_readVal : (s.setY b).readVal a = s.readVal a := by
  simp [State.readVal]
@[simp] theorem State.setY_writable : (s.setY b).writable a = s.writable a := rfl

@[simp] theorem State.setSP_cell : (s.setSP b).cell a = s.cell a := rfl
@[simp] theorem State.setSP_port : (s.setSP b).port p' = s.port p' := by cases p' <;> rfl
@[simp] theorem State.setSP_portNext : (s.setSP b).portNext p' = s.portNext p' := by
  cases p' <;> rfl
@[simp] theorem State.setSP_readVal : (s.setSP b).readVal a = s.readVal a := by
  simp [State.readVal]
@[simp] theorem State.setSP_writable : (s.setSP b).writable a = s.writable a := rfl

@[simp] theorem State.setPC_cell : (s.setPC b).cell a = s.cell a := rfl
@[simp] theorem State.setPC_port : (s.setPC b).port p' = s.port p' := by cases p' <;> rfl
@[simp] theorem State.setPC_portNext : (s.setPC b).portNext p' = s.portNext p' := by
  cases p' <;> rfl
@[simp] theorem State.setPC_readVal : (s.setPC b).readVal a = s.readVal a := by
  simp [State.readVal]
@[simp] theorem State.setPC_writable : (s.setPC b).writable a = s.writable a := rfl

@[simp] theorem State.setCC_cell : (s.setCC w).cell a = s.cell a := rfl
@[simp] theorem State.setCC_port : (s.setCC w).port p' = s.port p' := by cases p' <;> rfl
@[simp] theorem State.setCC_portNext : (s.setCC w).portNext p' = s.portNext p' := by
  cases p' <;> rfl
@[simp] theorem State.setCC_readVal : (s.setCC w).readVal a = s.readVal a := by
  simp [State.readVal]
@[simp] theorem State.setCC_writable : (s.setCC w).writable a = s.writable a := rfl

@[simp] theorem State.emit_cell : (s.emit p v).cell a = s.cell a := rfl
@[simp] theorem State.emit_port : (s.emit p v).port p' = s.port p' := by cases p' <;> rfl
@[simp] theorem State.emit_portNext : (s.emit p v).portNext p' = s.portNext p' := by
  cases p' <;> rfl
@[simp] theorem State.emit_readVal : (s.emit p v).readVal a = s.readVal a := by
  simp [State.readVal]
@[simp] theorem State.emit_writable : (s.emit p v).writable a = s.writable a := rfl

@[simp] theorem State.passBoundary_cell : (s.passBoundary).cell a = s.cell a := rfl
@[simp] theorem State.passBoundary_port : (s.passBoundary).port p' = s.port p' := by cases p' <;> rfl
@[simp] theorem State.passBoundary_portNext : (s.passBoundary).portNext p' = s.portNext p' := by
  cases p' <;> rfl
@[simp] theorem State.passBoundary_readVal : (s.passBoundary).readVal a = s.readVal a := by
  simp [State.readVal]
@[simp] theorem State.passBoundary_writable : (s.passBoundary).writable a = s.writable a := rfl

@[simp] theorem State.setCell_port : (s.setCell b v).port p' = s.port p' := by cases p' <;> rfl
@[simp] theorem State.setCell_portNext : (s.setCell b v).portNext p' = s.portNext p' := by
  cases p' <;> rfl
@[simp] theorem State.setCell_writable : (s.setCell b v).writable a = s.writable a := rfl
@[simp] theorem State.setPort_cell : (s.setPort p q).cell a = s.cell a := by
  simp [State.cell]
@[simp] theorem State.setPort_writable : (s.setPort p q).writable a = s.writable a := by
  simp [State.writable]

end readings

end Sys2Proof.Machine
end

