-- ==== Sys2Proof/Laws/Memory.lean ====
section
/-! SUPPORT. The laws of memory: a read after a write, the canonical form that every operation keeps, and
equal readings are equal memories. -/

namespace Sys2Proof.Machine

theorem Memory.lookup_erase (m : Memory) (a b : Nat) :
    (m.erase a).lookup b = if a = b then Config.unlistedByte else m.lookup b := by
  induction m with
  | nil => simp [Memory.erase, Memory.lookup]
  | cons cell rest ih =>
    obtain ⟨k, v⟩ := cell
    by_cases hka : k = a <;> by_cases hkb : k = b <;> by_cases hab : a = b <;>
      simp_all [Memory.erase, Memory.lookup]

theorem Memory.lookup_insert (m : Memory) (a b : Nat) (v : Byte)
    (h : m.lookup a = Config.unlistedByte ∧ ∀ cell ∈ m, cell.1 ≠ a) :
    (m.insert a v).lookup b = if a = b then v else m.lookup b := by
  induction m with
  | nil => simp [Memory.insert, Memory.lookup]
  | cons cell rest ih =>
    obtain ⟨k, w⟩ := cell
    have hka : k ≠ a := h.2 (k, w) (by simp)
    have hrest : Memory.lookup rest a = Config.unlistedByte := by simpa [Memory.lookup, hka] using h.1
    have ih' := ih ⟨hrest, fun cell hc => h.2 cell (by simp [hc])⟩
    by_cases hlt : a < k
    · simp [Memory.insert, Memory.lookup, hlt]
    · by_cases hkb : k = b
      · subst hkb
        simp [Memory.insert, Memory.lookup, hlt, Ne.symm hka]
      · simp [Memory.insert, Memory.lookup, hlt, hkb, ih']

theorem Memory.mem_erase {m : Memory} {a : Nat} {cell : Host.Cell} :
    cell ∈ m.erase a ↔ cell ∈ m ∧ cell.1 ≠ a := by
  induction m with
  | nil => simp [Memory.erase]
  | cons c rest ih =>
    obtain ⟨k, v⟩ := c
    by_cases hka : k = a
    · simp only [Memory.erase, hka, if_true, ih, List.mem_cons]
      constructor
      · exact fun h => ⟨.inr h.1, h.2⟩
      · rintro ⟨rfl | h, hne⟩
        · exact absurd rfl hne
        · exact ⟨h, hne⟩
    · simp only [Memory.erase, hka, if_false, List.mem_cons, ih]
      constructor
      · rintro (rfl | h)
        · exact ⟨.inl rfl, hka⟩
        · exact ⟨.inr h.1, h.2⟩
      · rintro ⟨rfl | h, hne⟩
        · exact .inl rfl
        · exact .inr ⟨h, hne⟩

theorem Memory.mem_insert {m : Memory} {a : Nat} {v : Byte} {cell : Host.Cell} :
    cell ∈ m.insert a v ↔ cell = (a, v) ∨ cell ∈ m := by
  induction m with
  | nil => simp [Memory.insert]
  | cons c rest ih =>
    obtain ⟨k, w⟩ := c
    by_cases hlt : a < k
    · simp [Memory.insert, hlt]
    · simp only [Memory.insert, hlt, if_false, List.mem_cons, ih]
      tauto

/-- A read after an update, at any address and in any memory. -/
theorem Memory.lookup_update (m : Memory) (a b : Nat) (v : Byte) :
    (m.update a v).lookup b = if a = b then v else m.lookup b := by
  unfold Memory.update
  split
  · next h => rw [Memory.lookup_erase, h]
  · rw [Memory.lookup_insert, Memory.lookup_erase]
    · split <;> rfl
    · exact ⟨by simp [Memory.lookup_erase], fun cell hc => (Memory.mem_erase.1 hc).2⟩

/-- An update lists nothing but what was listed and the new cell. -/
theorem Memory.mem_update {m : Memory} {a : Nat} {v : Byte} {cell : Host.Cell}
    (h : cell ∈ m.update a v) : cell = (a, v) ∨ cell ∈ m := by
  unfold Memory.update at h
  split at h
  · exact .inr (Memory.mem_erase.1 h).1
  · exact (Memory.mem_insert.1 h).imp_right fun h => (Memory.mem_erase.1 h).1

/-- The canonical form, one cell at a time. -/
theorem Memory.wf_cons {k : Nat} {v : Byte} {rest : Memory} :
    Memory.wf ((k, v) :: rest) = true ↔
      k < 256 ∧ v ≠ Config.unlistedByte ∧ (∀ cell ∈ rest, k < cell.1) ∧ Memory.wf rest = true := by
  simp [Memory.wf, and_assoc]

theorem Memory.wf_erase {m : Memory} (h : m.wf = true) (a : Nat) : (m.erase a).wf = true := by
  induction m with
  | nil => rfl
  | cons c rest ih =>
    obtain ⟨k, v⟩ := c
    obtain ⟨hk, hv, hlt, hrest⟩ := Memory.wf_cons.1 h
    by_cases hka : k = a
    · simpa [Memory.erase, hka] using ih hrest
    · simp only [Memory.erase, hka, if_false]
      exact Memory.wf_cons.2 ⟨hk, hv, fun c hc => hlt c (Memory.mem_erase.1 hc).1, ih hrest⟩

theorem Memory.wf_insert {m : Memory} (h : m.wf = true) {a : Nat} (ha : a < 256) {v : Byte}
    (hv : v ≠ Config.unlistedByte) (hno : ∀ cell ∈ m, cell.1 ≠ a) : (m.insert a v).wf = true := by
  induction m with
  | nil => simp [Memory.insert, Memory.wf, ha, hv]
  | cons c rest ih =>
    obtain ⟨k, w⟩ := c
    obtain ⟨hk, hw, hlt, hrest⟩ := Memory.wf_cons.1 h
    have hka : k ≠ a := hno (k, w) (by simp)
    by_cases hak : a < k
    · simp only [Memory.insert, hak, if_true]
      refine Memory.wf_cons.2 ⟨ha, hv, ?_, h⟩
      intro c hc
      rcases List.mem_cons.1 hc with rfl | hc
      · exact hak
      · exact hak.trans (hlt c hc)
    · simp only [Memory.insert, hak, if_false]
      refine Memory.wf_cons.2 ⟨hk, hw, ?_, ih hrest fun c hc => hno c (by simp [hc])⟩
      intro c hc
      rcases Memory.mem_insert.1 hc with rfl | hc
      · exact lt_of_le_of_ne (not_lt.1 hak) hka
      · exact hlt c hc

/-- An update keeps the canonical form. -/
theorem Memory.wf_update {m : Memory} (h : m.wf = true) {a : Nat} (ha : a < 256) (v : Byte) :
    (m.update a v).wf = true := by
  unfold Memory.update
  split
  · exact Memory.wf_erase h a
  · next hv =>
    exact Memory.wf_insert (Memory.wf_erase h a) ha hv fun c hc => (Memory.mem_erase.1 hc).2

theorem Memory.lookup_below {m : Memory} {k b : Nat} (h : ∀ cell ∈ m, k < cell.1) (hb : b ≤ k) :
    m.lookup b = Config.unlistedByte := by
  induction m with
  | nil => rfl
  | cons c rest ih =>
    obtain ⟨k', v⟩ := c
    have hk : k < k' := h (k', v) (by simp)
    simp only [Memory.lookup, show k' ≠ b by omega, if_false]
    exact ih fun c hc => h c (by simp [hc])

/-- Two memories in canonical form that read alike at every address are equal. -/
theorem Memory.ext_of_wf {m₁ m₂ : Memory} (h₁ : m₁.wf = true) (h₂ : m₂.wf = true)
    (h : ∀ a, m₁.lookup a = m₂.lookup a) : m₁ = m₂ := by
  induction m₁ generalizing m₂ with
  | nil =>
    cases m₂ with
    | nil => rfl
    | cons c rest =>
      obtain ⟨k, v⟩ := c
      exact absurd (by simpa [Memory.lookup] using (h k).symm) (Memory.wf_cons.1 h₂).2.1
  | cons c rest ih =>
    obtain ⟨k, v⟩ := c
    obtain ⟨-, hv, hlt, hrest⟩ := Memory.wf_cons.1 h₁
    cases m₂ with
    | nil => exact absurd (by simpa [Memory.lookup] using h k) hv
    | cons c' rest' =>
      obtain ⟨k', v'⟩ := c'
      obtain ⟨-, hv', hlt', hrest'⟩ := Memory.wf_cons.1 h₂
      have hk : k = k' := by
        rcases lt_trichotomy k k' with hl | he | hl
        · have := h k
          rw [Memory.lookup_below (m := (k', v') :: rest') (k := k)
            (by rintro c hc; rcases List.mem_cons.1 hc with rfl | hc
                · exact hl
                · exact hl.trans (hlt' c hc)) le_rfl] at this
          exact absurd (by simpa [Memory.lookup] using this) hv
        · exact he
        · have := h k'
          rw [Memory.lookup_below (m := (k, v) :: rest) (k := k')
            (by rintro c hc; rcases List.mem_cons.1 hc with rfl | hc
                · exact hl
                · exact hl.trans (hlt c hc)) le_rfl] at this
          exact absurd (by simpa [Memory.lookup] using this.symm) hv'
      subst hk
      have hvv : v = v' := by simpa [Memory.lookup] using h k
      subst hvv
      congr 1
      refine ih hrest hrest' fun a => ?_
      by_cases ha : k = a
      · subst ha
        rw [Memory.lookup_below hlt le_rfl, Memory.lookup_below hlt' le_rfl]
      · simpa [Memory.lookup, ha] using h a

/-! The cells of a state. -/

/-- A cell after a cell has been replaced. -/
theorem State.setCell_cell (s : State) (a b v : Byte) :
    (s.setCell a v).cell b = if a = b then v else s.cell b := by
  simp [State.cell, Memory.lookup_update, ← BitVec.toNat_eq]

@[simp] theorem State.setCell_cell_same (s : State) (a v : Byte) : (s.setCell a v).cell a = v := by
  simp [State.setCell_cell]

theorem State.setCell_cell_other (s : State) {a b : Byte} (v : Byte) (h : a ≠ b) :
    (s.setCell a v).cell b = s.cell b := by
  simp [State.setCell_cell, h]

end Sys2Proof.Machine
end

