-- ==== Sys2Proof/Laws/Ops.lean ====
section
/-! SUPPORT. One group of lemmas for each shared operation of Machine/Ops.lean: what it does to each field,
so that callers never unfold it. -/

namespace Sys2Proof.Machine

/-! Ports and addresses. -/

theorem portAt_eq_some {a : Byte} {p : Port} :
    portAt a = some p ↔ (a = 0xFB ∧ p = .fb) ∨ (a = 0xFC ∧ p = .fc) := by
  unfold portAt
  split
  · next h => subst h; cases p <;> simp
  · split
    · next h => subst h; cases p <;> simp
    · simp_all

theorem portAt_eq_none {a : Byte} : portAt a = none ↔ a ≠ 0xFB ∧ a ≠ 0xFC := by
  unfold portAt
  split
  · simp_all
  · split <;> simp_all

@[simp] theorem portAt_fb : portAt 0xFB = some .fb := rfl
@[simp] theorem portAt_fc : portAt 0xFC = some .fc := rfl

/-- The output event of a write, if it goes to a port. -/
def outputOf (a v : Byte) : List (Port × Byte) :=
  match portAt a with
  | some p => [(p, v)]
  | none => []

theorem State.readVal_memory (s : State) {a : Byte} (h : portAt a = none) :
    s.readVal a = s.cell a := by
  simp [State.readVal, h]

theorem State.readVal_port (s : State) {a : Byte} {p : Port} (h : portAt a = some p) :
    s.readVal a = s.portNext p := by
  simp [State.readVal, h]

/-! `MemRead`: only a port read changes the state, and only that port's input. -/

section afterRead

variable (s : State) (a b : Byte)

@[simp] theorem State.afterRead_a : (s.afterRead a).a = s.a := by
  unfold State.afterRead; split <;> simp
@[simp] theorem State.afterRead_x : (s.afterRead a).x = s.x := by
  unfold State.afterRead; split <;> simp
@[simp] theorem State.afterRead_y : (s.afterRead a).y = s.y := by
  unfold State.afterRead; split <;> simp
@[simp] theorem State.afterRead_sp : (s.afterRead a).sp = s.sp := by
  unfold State.afterRead; split <;> simp
@[simp] theorem State.afterRead_pc : (s.afterRead a).pc = s.pc := by
  unfold State.afterRead; split <;> simp
@[simp] theorem State.afterRead_cc : (s.afterRead a).cc = s.cc := by
  unfold State.afterRead; split <;> simp
@[simp] theorem State.afterRead_mem : (s.afterRead a).mem = s.mem := by
  unfold State.afterRead; split <;> simp
@[simp] theorem State.afterRead_portOut : (s.afterRead a).portOut = s.portOut := by
  unfold State.afterRead; split <;> simp
@[simp] theorem State.afterRead_lines : (s.afterRead a).lines = s.lines := by
  unfold State.afterRead; split <;> simp
@[simp] theorem State.afterRead_board : (s.afterRead a).board = s.board := by
  unfold State.afterRead; split <;> simp

@[simp] theorem State.afterRead_cell : (s.afterRead a).cell b = s.cell b := by
  simp [State.cell]

@[simp] theorem State.afterRead_writable : (s.afterRead a).writable b = s.writable b := by
  simp [State.writable]

theorem State.afterRead_portFB :
    (s.afterRead a).portFB = if a = 0xFB then s.portFB.consume else s.portFB := by
  unfold State.afterRead portAt
  split_ifs <;> simp_all

theorem State.afterRead_portFC :
    (s.afterRead a).portFC = if a = 0xFC then s.portFC.consume else s.portFC := by
  unfold State.afterRead portAt
  split_ifs <;> simp_all

theorem State.afterRead_memory {a : Byte} (h : portAt a = none) : s.afterRead a = s := by
  simp [State.afterRead, h]

/-- A read of one address leaves what a read of another address returns. -/
theorem State.afterRead_readVal_other {a b : Byte} (h : a ≠ b) :
    (s.afterRead a).readVal b = s.readVal b := by
  unfold State.readVal State.portNext
  rcases hb : portAt b with _ | p
  · simp
  · rcases portAt_eq_some.1 hb with ⟨rfl, rfl⟩ | ⟨rfl, rfl⟩
    · simp only [State.port_fb, State.afterRead_portFB, if_neg h]
    · simp only [State.port_fc, State.afterRead_portFC, if_neg h]

end afterRead

/-! `MemWrite`: a cell, an output event, or nothing. -/

section write

variable (s : State) (a b v : Byte)

@[simp] theorem State.write_a : (s.write a v).a = s.a := by
  unfold State.write; split
  · simp
  · split <;> simp
@[simp] theorem State.write_x : (s.write a v).x = s.x := by
  unfold State.write; split
  · simp
  · split <;> simp
@[simp] theorem State.write_y : (s.write a v).y = s.y := by
  unfold State.write; split
  · simp
  · split <;> simp
@[simp] theorem State.write_sp : (s.write a v).sp = s.sp := by
  unfold State.write; split
  · simp
  · split <;> simp
@[simp] theorem State.write_pc : (s.write a v).pc = s.pc := by
  unfold State.write; split
  · simp
  · split <;> simp
@[simp] theorem State.write_cc : (s.write a v).cc = s.cc := by
  unfold State.write; split
  · simp
  · split <;> simp
@[simp] theorem State.write_portFB : (s.write a v).portFB = s.portFB := by
  unfold State.write; split
  · simp
  · split <;> simp
@[simp] theorem State.write_portFC : (s.write a v).portFC = s.portFC := by
  unfold State.write; split
  · simp
  · split <;> simp
@[simp] theorem State.write_lines : (s.write a v).lines = s.lines := by
  unfold State.write; split
  · simp
  · split <;> simp
@[simp] theorem State.write_board : (s.write a v).board = s.board := by
  unfold State.write; split
  · simp
  · split <;> simp

@[simp] theorem State.write_writable : (s.write a v).writable b = s.writable b := by
  simp [State.writable]

/-- Every cell after a write: the one written, if it is no port and is writable, and no other. -/
theorem State.write_cell : (s.write a v).cell b =
    if a = b ∧ portAt a = none ∧ s.writable a = true then v else s.cell b := by
  unfold State.write
  split
  · next h => simp [h]
  · next h =>
    split
    · next hw => simp [State.setCell_cell, h, hw]
    · next hw => simp [hw]

theorem State.write_portOut : (s.write a v).portOut = s.portOut ++ outputOf a v := by
  unfold State.write outputOf
  split
  · next h => simp [h]
  · next h => split <;> simp [h]

/-- A write never changes what a port read returns (20_memory.md R56). -/
theorem State.write_portNext (p : Port) : (s.write a v).portNext p = s.portNext p := by
  cases p <;> simp [State.portNext]

theorem State.write_readVal : (s.write a v).readVal b =
    if a = b ∧ portAt a = none ∧ s.writable a = true then v else s.readVal b := by
  unfold State.readVal
  rcases hb : portAt b with _ | p
  · simp [State.write_cell]
  · simp only [State.write_portNext]
    rw [if_neg]
    rintro ⟨rfl, h, -⟩
    simp [hb] at h

/-- A write keeps the canonical form of memory. -/
theorem State.write_wf (h : s.mem.wf = true) : (s.write a v).mem.wf = true := by
  unfold State.write
  split
  · simpa using h
  · split
    · simpa using Memory.wf_update h a.isLt v
    · exact h

/-- A write lists nothing but what was listed and the cell of an address that is no port. -/
theorem State.mem_write {cell : Host.Cell} (h : cell ∈ (s.write a v).mem) :
    cell ∈ s.mem ∨ (cell.1 = a.toNat ∧ portAt a = none) := by
  unfold State.write at h
  split at h
  · exact .inl (by simpa using h)
  · next hp =>
    split at h
    · rcases Memory.mem_update (by simpa using h) with rfl | h
      · exact .inr ⟨rfl, hp⟩
      · exact .inl h
    · exact .inl h

end write

/-! The stack primitives. -/

section stack

variable (s : State) (a b v : Byte)

@[simp] theorem push8_a : (push8 s v).a = s.a := by simp [push8]
@[simp] theorem push8_x : (push8 s v).x = s.x := by simp [push8]
@[simp] theorem push8_y : (push8 s v).y = s.y := by simp [push8]
@[simp] theorem push8_pc : (push8 s v).pc = s.pc := by simp [push8]
@[simp] theorem push8_cc : (push8 s v).cc = s.cc := by simp [push8]
@[simp] theorem push8_portFB : (push8 s v).portFB = s.portFB := by simp [push8]
@[simp] theorem push8_portFC : (push8 s v).portFC = s.portFC := by simp [push8]
@[simp] theorem push8_lines : (push8 s v).lines = s.lines := by simp [push8]
@[simp] theorem push8_board : (push8 s v).board = s.board := by simp [push8]
@[simp] theorem push8_sp : (push8 s v).sp = s.sp - 1 := by simp [push8]
@[simp] theorem push8_writable : (push8 s v).writable b = s.writable b := by simp [push8]

theorem push8_cell : (push8 s v).cell b =
    if s.sp - 1 = b ∧ portAt (s.sp - 1) = none ∧ s.writable (s.sp - 1) = true then v
    else s.cell b :=
  State.write_cell (s.setSP (s.sp - 1)) (s.sp - 1) b v

theorem push8_portOut : (push8 s v).portOut = s.portOut ++ outputOf (s.sp - 1) v := by
  simp [push8, State.write_portOut]

@[simp] theorem pull8_val : (pull8 s).1 = s.readVal s.sp := rfl
@[simp] theorem pull8_a : (pull8 s).2.a = s.a := by simp [pull8]
@[simp] theorem pull8_x : (pull8 s).2.x = s.x := by simp [pull8]
@[simp] theorem pull8_y : (pull8 s).2.y = s.y := by simp [pull8]
@[simp] theorem pull8_pc : (pull8 s).2.pc = s.pc := by simp [pull8]
@[simp] theorem pull8_cc : (pull8 s).2.cc = s.cc := by simp [pull8]
@[simp] theorem pull8_mem : (pull8 s).2.mem = s.mem := by simp [pull8]
@[simp] theorem pull8_portOut : (pull8 s).2.portOut = s.portOut := by simp [pull8]
@[simp] theorem pull8_lines : (pull8 s).2.lines = s.lines := by simp [pull8]
@[simp] theorem pull8_board : (pull8 s).2.board = s.board := by simp [pull8]
@[simp] theorem pull8_sp : (pull8 s).2.sp = s.sp + 1 := rfl
@[simp] theorem pull8_cell : (pull8 s).2.cell b = s.cell b := by simp [pull8]

theorem pull8_portFB :
    (pull8 s).2.portFB = if s.sp = 0xFB then s.portFB.consume else s.portFB := by
  simp [pull8, State.afterRead_portFB]

theorem pull8_portFC :
    (pull8 s).2.portFC = if s.sp = 0xFC then s.portFC.consume else s.portFC := by
  simp [pull8, State.afterRead_portFC]

theorem pull8_readVal_other {b : Byte} (h : s.sp ≠ b) :
    (pull8 s).2.readVal b = s.readVal b := by
  simp [pull8, State.afterRead_readVal_other s h]

end stack

/-! Taking an exception. -/

section exceptions

variable (s : State) (b vector : Byte) (setI : Bool)

@[simp] theorem pushFrame_a : (pushFrame s).a = s.a := by simp [pushFrame]
@[simp] theorem pushFrame_x : (pushFrame s).x = s.x := by simp [pushFrame]
@[simp] theorem pushFrame_y : (pushFrame s).y = s.y := by simp [pushFrame]
@[simp] theorem pushFrame_pc : (pushFrame s).pc = s.pc := by simp [pushFrame]
@[simp] theorem pushFrame_cc : (pushFrame s).cc = s.cc := by simp [pushFrame]
@[simp] theorem pushFrame_portFB : (pushFrame s).portFB = s.portFB := by simp [pushFrame]
@[simp] theorem pushFrame_portFC : (pushFrame s).portFC = s.portFC := by simp [pushFrame]
@[simp] theorem pushFrame_lines : (pushFrame s).lines = s.lines := by simp [pushFrame]
@[simp] theorem pushFrame_board : (pushFrame s).board = s.board := by simp [pushFrame]

@[simp] theorem pushFrame_sp : (pushFrame s).sp = s.sp - 5 := by
  simp only [pushFrame, push8_sp]
  bv_omega

/-- The five bytes of the frame with their addresses, in the order they are pushed (R243). -/
def frameBytes (s : State) : List (Byte × Byte) :=
  [(s.sp - 1, s.pc), (s.sp - 2, s.y), (s.sp - 3, s.x), (s.sp - 4, s.a), (s.sp - 5, s.cc.toByte)]

/-- A byte pushed at an address reaches memory: it is no port and is writable. -/
abbrev State.stores (s : State) (a : Byte) : Prop := portAt a = none ∧ s.writable a = true

/-- Every cell after the frame is pushed: where a byte of the frame reaches memory it is that byte, and
every other cell is as before. -/
theorem pushFrame_cell :
    (∀ p ∈ frameBytes s, s.stores p.1 → (pushFrame s).cell p.1 = p.2) ∧
    (∀ b, (∀ p ∈ frameBytes s, p.1 = b → ¬ s.stores b) → (pushFrame s).cell b = s.cell b) := by
  have h1 : s.sp - 1 - 1 = s.sp - 2 := by bv_omega
  have h2 : s.sp - 2 - 1 = s.sp - 3 := by bv_omega
  have h3 : s.sp - 3 - 1 = s.sp - 4 := by bv_omega
  have h4 : s.sp - 4 - 1 = s.sp - 5 := by bv_omega
  have ne : ∀ j k : Byte, j ≠ k → s.sp - j ≠ s.sp - k := fun j k h e => h (by bv_omega)
  have key : ∀ b, (pushFrame s).cell b =
      if s.sp - 5 = b ∧ s.stores (s.sp - 5) then s.cc.toByte
      else if s.sp - 4 = b ∧ s.stores (s.sp - 4) then s.a
      else if s.sp - 3 = b ∧ s.stores (s.sp - 3) then s.x
      else if s.sp - 2 = b ∧ s.stores (s.sp - 2) then s.y
      else if s.sp - 1 = b ∧ s.stores (s.sp - 1) then s.pc
      else s.cell b := by
    intro b
    simp only [pushFrame, push8_cell, push8_sp, push8_writable, h1, h2, h3, h4, State.stores]
  constructor
  · intro p hp hst
    simp only [frameBytes, List.mem_cons, List.not_mem_nil, or_false] at hp
    rcases hp with rfl | rfl | rfl | rfl | rfl
    · rw [key,
        if_neg (fun e => ne 5 1 (by decide) e.1),
        if_neg (fun e => ne 4 1 (by decide) e.1),
        if_neg (fun e => ne 3 1 (by decide) e.1),
        if_neg (fun e => ne 2 1 (by decide) e.1),
        if_pos ⟨rfl, hst⟩]
    · rw [key,
        if_neg (fun e => ne 5 2 (by decide) e.1),
        if_neg (fun e => ne 4 2 (by decide) e.1),
        if_neg (fun e => ne 3 2 (by decide) e.1),
        if_pos ⟨rfl, hst⟩]
    · rw [key,
        if_neg (fun e => ne 5 3 (by decide) e.1),
        if_neg (fun e => ne 4 3 (by decide) e.1),
        if_pos ⟨rfl, hst⟩]
    · rw [key, if_neg (fun e => ne 5 4 (by decide) e.1), if_pos ⟨rfl, hst⟩]
    · rw [key, if_pos ⟨rfl, hst⟩]
  · intro b hb
    simp only [frameBytes, List.mem_cons, List.not_mem_nil, or_false, forall_eq_or_imp,
      forall_eq] at hb
    obtain ⟨b1, b2, b3, b4, b5⟩ := hb
    rw [key, if_neg, if_neg, if_neg, if_neg, if_neg]
    · rintro ⟨rfl, h⟩; exact b1 rfl h
    · rintro ⟨rfl, h⟩; exact b2 rfl h
    · rintro ⟨rfl, h⟩; exact b3 rfl h
    · rintro ⟨rfl, h⟩; exact b4 rfl h
    · rintro ⟨rfl, h⟩; exact b5 rfl h

theorem pushFrame_portOut : (pushFrame s).portOut =
    s.portOut ++ (frameBytes s).flatMap fun p => outputOf p.1 p.2 := by
  have h1 : s.sp - 1 - 1 = s.sp - 2 := by bv_omega
  have h2 : s.sp - 2 - 1 = s.sp - 3 := by bv_omega
  have h3 : s.sp - 3 - 1 = s.sp - 4 := by bv_omega
  have h4 : s.sp - 4 - 1 = s.sp - 5 := by bv_omega
  simp only [pushFrame, push8_portOut, push8_sp, frameBytes, h1, h2, h3, h4, List.flatMap_cons,
    List.flatMap_nil, List.append_assoc, List.append_nil]

@[simp] theorem loadVector_a : (loadVector s vector).a = s.a := by simp [loadVector]
@[simp] theorem loadVector_x : (loadVector s vector).x = s.x := by simp [loadVector]
@[simp] theorem loadVector_y : (loadVector s vector).y = s.y := by simp [loadVector]
@[simp] theorem loadVector_sp : (loadVector s vector).sp = s.sp := by simp [loadVector]
@[simp] theorem loadVector_cc : (loadVector s vector).cc = s.cc := by simp [loadVector]
@[simp] theorem loadVector_mem : (loadVector s vector).mem = s.mem := by simp [loadVector]
@[simp] theorem loadVector_portOut : (loadVector s vector).portOut = s.portOut := by simp [loadVector]
@[simp] theorem loadVector_lines : (loadVector s vector).lines = s.lines := by simp [loadVector]
@[simp] theorem loadVector_board : (loadVector s vector).board = s.board := by simp [loadVector]
@[simp] theorem loadVector_pc : (loadVector s vector).pc = s.readVal vector := rfl

/-- A vector is no port, so loading it is a plain memory read. -/
theorem loadVector_memory {vector : Byte} (h : portAt vector = none) :
    loadVector s vector = s.setPC (s.cell vector) := by
  simp [loadVector, State.afterRead_memory s h, State.readVal_memory s h]

/-- Taking an exception, in full (60_exceptions.md R244, R246): the frame, the flags, the vector. -/
theorem takeException_eq {vector : Byte} (h : portAt vector = none) :
    takeException s vector setI =
      ((pushFrame s).setCC { s.cc with i := setI || s.cc.i }).setPC ((pushFrame s).cell vector) := by
  simp [takeException, loadVector_memory _ h]

theorem trapEntry_eq : trapEntry s =
    ((pushFrame s).setCC { s.cc with i := s.board.trapSetsI || s.cc.i }).setPC
      ((pushFrame s).cell 0xFE) :=
  takeException_eq s _ (by decide)

theorem irqEntry_eq : irqEntry s =
    ((pushFrame s).setCC { s.cc with i := true }).setPC ((pushFrame s).cell 0xFD) :=
  takeException_eq s true (by decide)

/-- The reset action, in full (70_reset_and_hazards.md R280). -/
theorem resetEntry_eq : resetEntry s =
    (s.setCC { s.cc with i := true }).setPC (s.cell 0xFF) := by
  rw [resetEntry, loadVector_memory _ (by decide)]
  rfl

/-- The return from an exception, in full: five reads at SP to SP + 4 (42_flow_control.md R151). -/
theorem returnFromException_fields :
    (returnFromException s).cc = CC.ofByte (s.readVal s.sp) ∧
    (returnFromException s).a = s.readVal (s.sp + 1) ∧
    (returnFromException s).x = s.readVal (s.sp + 2) ∧
    (returnFromException s).y = s.readVal (s.sp + 3) ∧
    (returnFromException s).pc = s.readVal (s.sp + 4) ∧
    (returnFromException s).sp = s.sp + 5 := by
  have h1 : s.sp + 1 + 1 = s.sp + 2 := by bv_omega
  have h2 : s.sp + 2 + 1 = s.sp + 3 := by bv_omega
  have h3 : s.sp + 3 + 1 = s.sp + 4 := by bv_omega
  have h4 : s.sp + 4 + 1 = s.sp + 5 := by bv_omega
  refine ⟨?_, ?_, ?_, ?_, ?_, ?_⟩ <;>
    simp (disch := ((try simp only [pull8_sp, State.setCC_sp, State.setA_sp, State.setX_sp,
      State.setY_sp]); bv_omega)) only [returnFromException, pull8_val, pull8_readVal_other,
      pull8_sp, pull8_cc, pull8_a, pull8_x, pull8_y, State.setCC_sp, State.setCC_cc,
      State.setCC_readVal, State.setA_sp, State.setA_cc, State.setA_a, State.setA_readVal,
      State.setX_sp, State.setX_cc, State.setX_a, State.setX_x, State.setX_readVal, State.setY_sp,
      State.setY_cc, State.setY_a, State.setY_x, State.setY_y, State.setY_readVal,
      State.setPC_cc, State.setPC_a, State.setPC_x, State.setPC_y, State.setPC_pc,
      State.setPC_sp, h1, h2, h3, h4]

theorem returnFromException_frame :
    (returnFromException s).mem = s.mem ∧ (returnFromException s).portOut = s.portOut ∧
    (returnFromException s).lines = s.lines ∧ (returnFromException s).board = s.board := by
  simp [returnFromException]

end exceptions

/-! The branch. -/

theorem branchIf_eq (taken : Bool) (n : Byte) (s : State) :
    branchIf taken n s = s.setPC (if taken then s.pc + n else s.pc) := by
  cases taken <;> rfl

end Sys2Proof.Machine
end

