-- ==== Sys2Proof/Laws/Operands.lean ====
section
/-! SUPPORT. What each shape of Machine/Operands.lean does, field by field: callers cite these lemmas and
never unfold the shapes. -/

namespace Sys2Proof.Machine

section modes

variable (m : MemMode) (s : State) (a b v : Byte)

@[simp] theorem preUpdate_a : (preUpdate m s).a = s.a := by cases m <;> rfl
@[simp] theorem preUpdate_sp : (preUpdate m s).sp = s.sp := by cases m <;> rfl
@[simp] theorem preUpdate_pc : (preUpdate m s).pc = s.pc := by cases m <;> rfl
@[simp] theorem preUpdate_cc : (preUpdate m s).cc = s.cc := by cases m <;> rfl
@[simp] theorem preUpdate_mem : (preUpdate m s).mem = s.mem := by cases m <;> rfl
@[simp] theorem preUpdate_portFB : (preUpdate m s).portFB = s.portFB := by cases m <;> rfl
@[simp] theorem preUpdate_portFC : (preUpdate m s).portFC = s.portFC := by cases m <;> rfl
@[simp] theorem preUpdate_portOut : (preUpdate m s).portOut = s.portOut := by cases m <;> rfl
@[simp] theorem preUpdate_lines : (preUpdate m s).lines = s.lines := by cases m <;> rfl
@[simp] theorem preUpdate_board : (preUpdate m s).board = s.board := by cases m <;> rfl
@[simp] theorem preUpdate_cell : (preUpdate m s).cell b = s.cell b := by cases m <;> rfl
@[simp] theorem preUpdate_readVal : (preUpdate m s).readVal b = s.readVal b := by
  cases m <;> rfl
@[simp] theorem preUpdate_writable : (preUpdate m s).writable b = s.writable b := by cases m <;> rfl

@[simp] theorem postUpdate_a : (postUpdate m s).a = s.a := by cases m <;> rfl
@[simp] theorem postUpdate_sp : (postUpdate m s).sp = s.sp := by cases m <;> rfl
@[simp] theorem postUpdate_pc : (postUpdate m s).pc = s.pc := by cases m <;> rfl
@[simp] theorem postUpdate_cc : (postUpdate m s).cc = s.cc := by cases m <;> rfl
@[simp] theorem postUpdate_mem : (postUpdate m s).mem = s.mem := by cases m <;> rfl
@[simp] theorem postUpdate_portFB : (postUpdate m s).portFB = s.portFB := by cases m <;> rfl
@[simp] theorem postUpdate_portFC : (postUpdate m s).portFC = s.portFC := by cases m <;> rfl
@[simp] theorem postUpdate_portOut : (postUpdate m s).portOut = s.portOut := by cases m <;> rfl
@[simp] theorem postUpdate_lines : (postUpdate m s).lines = s.lines := by cases m <;> rfl
@[simp] theorem postUpdate_board : (postUpdate m s).board = s.board := by cases m <;> rfl
@[simp] theorem postUpdate_cell : (postUpdate m s).cell b = s.cell b := by cases m <;> rfl
@[simp] theorem postUpdate_readVal : (postUpdate m s).readVal b = s.readVal b := by
  cases m <;> rfl
@[simp] theorem postUpdate_writable : (postUpdate m s).writable b = s.writable b := by cases m <;> rfl

/-- X over both updates, whatever is accessed between them. -/
theorem postUpdate_x {t : State} (h : t.x = (preUpdate m s).x) :
    (postUpdate m t).x = indexX m s := by
  cases m <;> simp_all [postUpdate, preUpdate, indexX]

/-- Y over both updates, whatever is accessed between them. -/
theorem postUpdate_y {t : State} (h : t.y = (preUpdate m s).y) :
    (postUpdate m t).y = indexY m s := by
  cases m <;> simp_all [postUpdate, preUpdate, indexY]

end modes

/-! A read of the operand in memory. -/

section readMem

variable (m : MemMode) (s : State) (b : Byte)

@[simp] theorem readMem_val : (readMem m s).1 = s.readVal (effectiveAddress m s) := by
  simp [readMem]

@[simp] theorem readMem_x : (readMem m s).2.x = indexX m s := by
  simp [readMem, postUpdate_x m s]

@[simp] theorem readMem_y : (readMem m s).2.y = indexY m s := by
  simp [readMem, postUpdate_y m s]

@[simp] theorem readMem_a : (readMem m s).2.a = s.a := by simp [readMem]
@[simp] theorem readMem_sp : (readMem m s).2.sp = s.sp := by simp [readMem]
@[simp] theorem readMem_pc : (readMem m s).2.pc = s.pc := by simp [readMem]
@[simp] theorem readMem_cc : (readMem m s).2.cc = s.cc := by simp [readMem]
@[simp] theorem readMem_mem : (readMem m s).2.mem = s.mem := by simp [readMem]
@[simp] theorem readMem_portOut : (readMem m s).2.portOut = s.portOut := by simp [readMem]
@[simp] theorem readMem_lines : (readMem m s).2.lines = s.lines := by simp [readMem]
@[simp] theorem readMem_board : (readMem m s).2.board = s.board := by simp [readMem]
@[simp] theorem readMem_cell : (readMem m s).2.cell b = s.cell b := by simp [readMem]

theorem readMem_portFB : (readMem m s).2.portFB = (s.afterRead (effectiveAddress m s)).portFB := by
  simp [readMem, State.afterRead_portFB]

theorem readMem_portFC : (readMem m s).2.portFC = (s.afterRead (effectiveAddress m s)).portFC := by
  simp [readMem, State.afterRead_portFC]

end readMem

/-! A write of the operand in memory. -/

section writeMem

variable (m : MemMode) (s : State) (b v : Byte)

@[simp] theorem writeMem_x : (writeMem m v s).x = indexX m s := by
  simp [writeMem, postUpdate_x m s]

@[simp] theorem writeMem_y : (writeMem m v s).y = indexY m s := by
  simp [writeMem, postUpdate_y m s]

@[simp] theorem writeMem_a : (writeMem m v s).a = s.a := by simp [writeMem]
@[simp] theorem writeMem_sp : (writeMem m v s).sp = s.sp := by simp [writeMem]
@[simp] theorem writeMem_pc : (writeMem m v s).pc = s.pc := by simp [writeMem]
@[simp] theorem writeMem_cc : (writeMem m v s).cc = s.cc := by simp [writeMem]
@[simp] theorem writeMem_portFB : (writeMem m v s).portFB = s.portFB := by simp [writeMem]
@[simp] theorem writeMem_portFC : (writeMem m v s).portFC = s.portFC := by simp [writeMem]
@[simp] theorem writeMem_lines : (writeMem m v s).lines = s.lines := by simp [writeMem]
@[simp] theorem writeMem_board : (writeMem m v s).board = s.board := by simp [writeMem]

theorem writeMem_mem : (writeMem m v s).mem = (s.write (effectiveAddress m s) v).mem := by
  simp only [writeMem, postUpdate_mem]
  unfold State.write
  split
  · simp
  · simp only [preUpdate_writable]
    split <;> simp

theorem writeMem_cell :
    (writeMem m v s).cell b = (s.write (effectiveAddress m s) v).cell b := by
  simp [State.cell, writeMem_mem]

theorem writeMem_portOut :
    (writeMem m v s).portOut = (s.write (effectiveAddress m s) v).portOut := by
  simp [writeMem, State.write_portOut]

end writeMem

/-! The operand. -/

section readOperand

variable (o : Operand) (s : State) (b : Byte)

@[simp] theorem readOperand_val : (readOperand o s).1 = operandValue o s := by
  cases o <;> simp [readOperand, operandValue]

@[simp] theorem readOperand_x : (readOperand o s).2.x = operandX o s := by
  cases o <;> simp [readOperand, operandX]

@[simp] theorem readOperand_y : (readOperand o s).2.y = operandY o s := by
  cases o <;> simp [readOperand, operandY]

@[simp] theorem readOperand_a : (readOperand o s).2.a = s.a := by
  cases o <;> simp [readOperand]
@[simp] theorem readOperand_sp : (readOperand o s).2.sp = s.sp := by
  cases o <;> simp [readOperand]
@[simp] theorem readOperand_pc : (readOperand o s).2.pc = s.pc := by
  cases o <;> simp [readOperand]
@[simp] theorem readOperand_cc : (readOperand o s).2.cc = s.cc := by
  cases o <;> simp [readOperand]
@[simp] theorem readOperand_mem : (readOperand o s).2.mem = s.mem := by
  cases o <;> simp [readOperand]
@[simp] theorem readOperand_portOut : (readOperand o s).2.portOut = s.portOut := by
  cases o <;> simp [readOperand]
@[simp] theorem readOperand_lines : (readOperand o s).2.lines = s.lines := by
  cases o <;> simp [readOperand]
@[simp] theorem readOperand_board : (readOperand o s).2.board = s.board := by
  cases o <;> simp [readOperand]
@[simp] theorem readOperand_cell : (readOperand o s).2.cell b = s.cell b := by
  cases o <;> simp [readOperand]

theorem afterRead_readsAt (t : State) (a : Byte) (hb : t.portFB = (s.afterRead a).portFB)
    (hc : t.portFC = (s.afterRead a).portFC) : readsAt s t a := by
  rw [State.afterRead_portFB] at hb
  rw [State.afterRead_portFC] at hc
  unfold readsAt PortInput.afterOneRead
  constructor
  · split <;> simp_all [PortInput.consume]
  · split <;> simp_all [PortInput.consume]

/-- The one port read that an operand can make. -/
theorem readOperand_reads {t : State} (hb : t.portFB = (readOperand o s).2.portFB)
    (hc : t.portFC = (readOperand o s).2.portFC) : readsOperand s t o := by
  cases o with
  | im n => exact ⟨hb, hc⟩
  | mem m =>
    exact afterRead_readsAt s t _ (hb.trans (readMem_portFB m s)) (hc.trans (readMem_portFC m s))

end readOperand

/-- A write, in the terms of the claims. -/
theorem write_storesAt (s t : State) (a v : Byte) (hc : ∀ b, t.cell b = (s.write a v).cell b)
    (ho : t.portOut = (s.write a v).portOut) : storesAt s t a v := by
  refine ⟨fun b hb => ?_, fun ha => ?_, fun ha => ?_, fun h1 h2 => ?_⟩
  · rw [hc, State.write_cell, if_neg fun h => hb h.1.symm]
  · have hp : portAt a = some .fb := portAt_eq_some.2 (.inl ⟨ha, rfl⟩)
    refine ⟨?_, ?_⟩
    · rw [hc, State.write_cell, if_neg fun h => by simp [hp] at h]
    · simp [ho, State.write_portOut, outputOf, hp]
  · have hp : portAt a = some .fc := portAt_eq_some.2 (.inr ⟨ha, rfl⟩)
    refine ⟨?_, ?_⟩
    · rw [hc, State.write_cell, if_neg fun h => by simp [hp] at h]
    · simp [ho, State.write_portOut, outputOf, hp]
  · have hn : portAt a = none := portAt_eq_none.2 ⟨h1, h2⟩
    refine ⟨by simp [ho, State.write_portOut, outputOf, hn], ?_⟩
    rw [hc, State.write_cell]
    by_cases hr : a ∈ s.board.readOnly <;> simp [hn, State.writable, hr]

/-! The shapes of the instructions. -/

/-- A load, whichever register `setR` writes: what it is in terms of the operand. -/
theorem loadInto_eq (setR : State → Byte → State) (o : Operand) (s : State) :
    loadInto setR o s =
      (setR (readOperand o s).2 (operandValue o s)).setCC (s.cc.ofLogic (operandValue o s)) := by
  simp [loadInto]

/-- A two-operand instruction on A, in terms of the operand. -/
theorem computeIntoA_eq (f : Byte → Byte → CC → Computed) (o : Operand) (s : State) :
    computeIntoA f o s =
      ((readOperand o s).2.setA (f s.a (operandValue o s) s.cc).val).setCC
        (f s.a (operandValue o s) s.cc).cc := by
  simp [computeIntoA]

/-- A comparison, in terms of the operand and of the register as the operand's read leaves it. -/
theorem compareWith_eq (f : Byte → Byte → CC → Computed) (reg : State → Byte) (o : Operand)
    (s : State) :
    compareWith f reg o s =
      (readOperand o s).2.setCC (f (reg (readOperand o s).2) (operandValue o s) s.cc).cc := by
  simp [compareWith]

section modifyMem

variable (f : Byte → CC → Computed) (m : MemMode) (s : State) (b : Byte)

@[simp] theorem modifyMem_x : (modifyMem f m s).x = indexX m s := by
  simp [modifyMem, postUpdate_x m s]

@[simp] theorem modifyMem_y : (modifyMem f m s).y = indexY m s := by
  simp [modifyMem, postUpdate_y m s]

@[simp] theorem modifyMem_cc :
    (modifyMem f m s).cc = (f (s.readVal (effectiveAddress m s)) s.cc).cc := by
  simp [modifyMem]

@[simp] theorem modifyMem_a : (modifyMem f m s).a = s.a := by simp [modifyMem]
@[simp] theorem modifyMem_sp : (modifyMem f m s).sp = s.sp := by simp [modifyMem]
@[simp] theorem modifyMem_pc : (modifyMem f m s).pc = s.pc := by simp [modifyMem]
@[simp] theorem modifyMem_lines : (modifyMem f m s).lines = s.lines := by simp [modifyMem]
@[simp] theorem modifyMem_board : (modifyMem f m s).board = s.board := by simp [modifyMem]

theorem modifyMem_cell : (modifyMem f m s).cell b =
    (s.write (effectiveAddress m s)
      (f (s.readVal (effectiveAddress m s)) s.cc).val).cell b := by
  simp [modifyMem, State.write_cell]

theorem modifyMem_portOut : (modifyMem f m s).portOut =
    (s.write (effectiveAddress m s)
      (f (s.readVal (effectiveAddress m s)) s.cc).val).portOut := by
  simp [modifyMem, State.write_portOut]

theorem modifyMem_portFB :
    (modifyMem f m s).portFB = (s.afterRead (effectiveAddress m s)).portFB := by
  simp [modifyMem, State.afterRead_portFB]

theorem modifyMem_portFC :
    (modifyMem f m s).portFC = (s.afterRead (effectiveAddress m s)).portFC := by
  simp [modifyMem, State.afterRead_portFC]

end modifyMem

end Sys2Proof.Machine
end

