-- ==== Sys2Proof/Laws/Effects.lean ====
section
/-! SUPPORT. The effects of Safety.lean from the shapes of Machine/Operands.lean and the operations of
Machine/Ops.lean: each shape's effect is shown once, for whatever instruction has it. -/

namespace Sys2Proof.Machine

variable {i : Instr} {s t : State} {a x y sp pc v : Byte} {cc : CC}

/-! Port reads. -/

theorem readsAll_nil (hb : t.portFB = s.portFB) (hc : t.portFC = s.portFC) : readsAll s t [] := by
  simp [readsAll, hb, hc]

theorem readsAll_one (hb : t.portFB = (s.afterRead a).portFB)
    (hc : t.portFC = (s.afterRead a).portFC) : readsAll s t [a] := by
  rw [State.afterRead_portFB] at hb
  rw [State.afterRead_portFC] at hc
  simp only [readsAll, hb, hc, List.count_singleton, beq_iff_eq]
  refine ⟨?_, ?_, ?_, ?_⟩ <;> split <;> simp [PortInput.consume]

theorem readsAll_append {u : State} {l k : List Byte} (h1 : readsAll s t l) (h2 : readsAll t u k) :
    readsAll s u (l ++ k) := by
  obtain ⟨a, b, c, d⟩ := h1
  obtain ⟨e, f, g, h⟩ := h2
  refine ⟨?_, ?_, ?_, ?_⟩ <;>
    simp_all [List.drop_drop, Nat.add_assoc]

/-- The five reads of the return from an exception. -/
theorem returnFromException_readsAll (s : State) :
    readsAll s (returnFromException s) [s.sp, s.sp + 1, s.sp + 2, s.sp + 3, s.sp + 4] := by
  have hp : ∀ s t : State, t.portFB = (pull8 s).2.portFB → t.portFC = (pull8 s).2.portFC →
      readsAll s t [s.sp] := fun _ _ hb hc => readsAll_one hb hc
  have h1 : s.sp + 1 + 1 = s.sp + 2 := by bv_omega
  have h2 : s.sp + 2 + 1 = s.sp + 3 := by bv_omega
  have h3 : s.sp + 3 + 1 = s.sp + 4 := by bv_omega
  let c := (pull8 s).2.setCC (CC.ofByte (pull8 s).1)
  let a := (pull8 c).2.setA (pull8 c).1
  let x := (pull8 a).2.setX (pull8 a).1
  let y := (pull8 x).2.setY (pull8 x).1
  let p := (pull8 y).2.setPC (pull8 y).1
  have e : returnFromException s = p := rfl
  have k1 : readsAll s c [s.sp] := hp _ _ rfl rfl
  have k2 : readsAll c a [s.sp + 1] := hp c _ rfl rfl
  have k3 : readsAll a x [s.sp + 2] := by
    have := hp a x rfl rfl
    rwa [show a.sp = s.sp + 2 from h1] at this
  have k4 : readsAll x y [s.sp + 3] := by
    have := hp x y rfl rfl
    rwa [show x.sp = s.sp + 3 by rw [← h2, ← h1]; rfl] at this
  have k5 : readsAll y p [s.sp + 4] := by
    have := hp y p rfl rfl
    rwa [show y.sp = s.sp + 4 by rw [← h3, ← h2, ← h1]; rfl] at this
  rw [e]
  exact readsAll_append k1 (readsAll_append k2 (readsAll_append k3 (readsAll_append k4 k5)))

/-! Memory of the shapes. -/

theorem modifyMem_mem (f : Byte → CC → Computed) (m : MemMode) (s : State) :
    (modifyMem f m s).mem =
      (s.write (effectiveAddress m s) (f (s.readVal (effectiveAddress m s)) s.cc).val).mem := by
  simp only [modifyMem, State.setCC_mem, postUpdate_mem, preUpdate_readVal, preUpdate_cc]
  unfold State.write
  split
  · simp
  · simp only [preUpdate_writable, State.afterRead_writable]
    split <;> simp

theorem push8_mem (s : State) (v : Byte) : (push8 s v).mem = (s.write (s.sp - 1) v).mem := by
  unfold push8 State.write
  split
  · rfl
  · show (if s.writable _ = true then _ else _ : State).mem = _
    split <;> rfl

/-! The index registers in the modes that do not move them. -/

theorem operandXY_of_isBinary {o : Operand} (h : o.isBinary = true) (s : State) :
    operandX o s = s.x ∧ operandY o s = s.y := by
  cases o with
  | im => exact ⟨rfl, rfl⟩
  | mem m => cases m <;> first | exact ⟨rfl, rfl⟩ | cases h

theorem indexXY_of_isPlain {m : MemMode} (h : m.isPlain = true) (s : State) :
    indexX m s = s.x ∧ indexY m s = s.y := by
  cases m <;> first | exact ⟨rfl, rfl⟩ | cases h

/-! The effects. -/

theorem sourceEffect_of {o : Operand} (he : exec i s = .next t)
    (hr : t.hasRegisters a x y sp s.pc cc) (hm : t.mem = s.mem) (ho : t.portOut = s.portOut)
    (hb : t.portFB = (readOperand o s).2.portFB) (hc : t.portFC = (readOperand o s).2.portFC)
    (hl : t.lines = s.lines) (hd : t.board = s.board) : sourceEffect i o s a x y sp cc :=
  ⟨t, he, hr, ⟨fun b => by simp [State.cell, hm], ho⟩, readOperand_reads o s hb hc, hl, hd⟩

theorem inherentEffect_of (he : exec i s = .next t) (hr : t.hasRegisters a x y sp pc cc)
    (hm : t.mem = s.mem) (ho : t.portOut = s.portOut) (hb : t.portFB = s.portFB)
    (hc : t.portFC = s.portFC) (hl : t.lines = s.lines) (hd : t.board = s.board) :
    inherentEffect i s a x y sp pc cc :=
  ⟨t, he, hr, ⟨fun b => by simp [State.cell, hm], ho⟩, ⟨hb, hc⟩, hl, hd⟩

theorem storeEffect_of_writeMem {m : MemMode}
    (he : exec i s = .next ((writeMem m v s).setCC cc)) : storeEffect i m s v cc :=
  ⟨_, he, ⟨by simp, by simp, by simp, by simp, by simp, rfl⟩,
    write_storesAt s _ _ _ (fun b => by simpa using writeMem_cell m s b v)
      (by simpa using writeMem_portOut m s v),
    ⟨by simp, by simp⟩, by simp, by simp⟩

theorem modifyEffect_of_modifyMem {m : MemMode} {f : Byte → CC → Computed}
    (he : exec i s = .next (modifyMem f m s))
    (hv : f (s.readVal (effectiveAddress m s)) s.cc = ⟨v, cc⟩) : modifyEffect i m s v cc :=
  ⟨_, he, ⟨by simp, by simp, by simp, by simp, by simp, by simp [hv]⟩,
    write_storesAt s _ _ _ (fun b => by simpa [hv] using modifyMem_cell f m s b)
      (by simpa [hv] using modifyMem_portOut f m s),
    afterRead_readsAt s _ _ (modifyMem_portFB f m s) (modifyMem_portFC f m s), by simp, by simp⟩

theorem pushEffect_of_push8 (he : exec i s = .next ((push8 s v).setPC pc)) :
    pushEffect i s v pc :=
  ⟨_, he, ⟨by simp, by simp, by simp, by simp, by simp, by simp⟩,
    write_storesAt s _ _ _ (fun b => by simp [push8_cell, State.write_cell])
      (by simp [push8_portOut, State.write_portOut]),
    ⟨by simp, by simp⟩, by simp, by simp⟩

theorem pullEffect_of (he : exec i s = .next t) (h : t.hasRegisters a x y (s.sp + 1) pc cc)
    (hm : t.mem = s.mem) (ho : t.portOut = s.portOut) (hb : t.portFB = (pull8 s).2.portFB)
    (hc : t.portFC = (pull8 s).2.portFC) (hl : t.lines = s.lines) (hd : t.board = s.board) :
    pullEffect i s a x y pc cc :=
  ⟨_, he, h, ⟨fun b => by simp [State.cell, hm], ho⟩, afterRead_readsAt s t _ hb hc, hl, hd⟩

theorem branchEffect_of_branchIf {n : Byte} {p : Prop} [Decidable p] {b : Bool}
    (he : exec i s = .next (branchIf b n s)) (h : b = true ↔ p) : branchEffect i n p s := by
  have hb : b = decide p := by by_cases hp : p <;> simp [hp] at h ⊢ <;> simp [h]
  subst hb
  refine inherentEffect_of he ?_ ?_ ?_ ?_ ?_ ?_ ?_ <;> simp [branchIf_eq, State.hasRegisters]

/-! The frame of an exception. -/

/-- A state with the memory and the output of `pushFrame` holds the frame (60_exceptions.md R243). -/
theorem pushesFrame_of_pushFrame (hm : t.mem = (pushFrame s).mem)
    (ho : t.portOut = (pushFrame s).portOut) : pushesFrame s t := by
  obtain ⟨h1, h2⟩ := pushFrame_cell s
  have hst : ∀ a, s.stores a ↔ ¬ (a = 0xFB ∨ a = 0xFC ∨ a ∈ s.board.readOnly) := by
    intro a
    simp only [State.stores, portAt_eq_none, State.writable]
    simp
    tauto
  have key : ∀ b, (pushFrame s).cell b =
      if b = 0xFB ∨ b = 0xFC ∨ b ∈ s.board.readOnly then s.cell b
      else if b = s.sp - 1 then s.pc
      else if b = s.sp - 2 then s.y
      else if b = s.sp - 3 then s.x
      else if b = s.sp - 4 then s.a
      else if b = s.sp - 5 then s.cc.toByte
      else s.cell b := by
    intro b
    simp only [frameBytes, List.mem_cons, List.not_mem_nil, or_false, forall_eq_or_imp,
      forall_eq] at h1 h2
    by_cases hb : b = 0xFB ∨ b = 0xFC ∨ b ∈ s.board.readOnly
    · rw [if_pos hb]
      have hn : ¬ s.stores b := by rw [hst]; exact not_not_intro hb
      exact h2 b ⟨fun _ => hn, fun _ => hn, fun _ => hn, fun _ => hn, fun _ => hn⟩
    · rw [if_neg hb]
      have hn : s.stores b := by rw [hst]; exact hb
      split_ifs with e1 e2 e3 e4 e5
      · subst e1; exact h1.1 hn
      · subst e2; exact h1.2.1 hn
      · subst e3; exact h1.2.2.1 hn
      · subst e4; exact h1.2.2.2.1 hn
      · subst e5; exact h1.2.2.2.2 hn
      · exact h2 b ⟨fun e => absurd e.symm e1, fun e => absurd e.symm e2,
          fun e => absurd e.symm e3, fun e => absurd e.symm e4, fun e => absurd e.symm e5⟩
  refine ⟨fun b => by rw [← key b]; simp [State.cell, hm], ?_⟩
  rw [ho, pushFrame_portOut]
  congr 1
  simp only [frameBytes, portEvents]
  generalize [(s.sp - 1, s.pc), (s.sp - 2, s.y), (s.sp - 3, s.x), (s.sp - 4, s.a),
    (s.sp - 5, s.cc.toByte)] = l
  induction l with
  | nil => rfl
  | cons p l ih =>
    rw [List.flatMap_cons, ih, List.filterMap_cons]
    rcases h : portAt p.1 with _ | q <;> simp [outputOf, h]

end Sys2Proof.Machine
end

