-- ==== Sys2Proof/Laws/Flags.lean ====
section
/-! SUPPORT. The sums and differences of 00_scope.md R15 in BitVec terms: the result, the carry or borrow, and
the overflow by the signs. -/

namespace Sys2Proof.Machine

theorem byte_msb (a : Byte) : a.msb = decide (128 ≤ a.toNat) := by
  rw [BitVec.msb_eq_decide]

theorem byte_toInt (a : Byte) :
    a.toInt = if a.toNat < 128 then (a.toNat : Int) else a.toNat - 256 := by
  rw [BitVec.toInt_eq_toNat_cond]
  split <;> split <;> omega

section sums

variable (a b : Byte) (cin : Bool)

theorem add8_r : (add8 a b cin).r = a + b + (if cin then 1 else 0) := by
  apply BitVec.eq_of_toNat_eq
  cases cin <;> simp [add8, BitVec.toNat_add]

theorem add8_c :
    (add8 a b cin).c = decide (256 ≤ a.toNat + b.toNat + if cin then 1 else 0) := by
  cases cin <;> simp [add8]

/-- Overflow of a sum: equal signs that differ from the result's. -/
theorem add8_v :
    (add8 a b cin).v = (a.msb == b.msb && (add8 a b cin).r.msb != a.msb) := by
  have ha := a.isLt
  have hb := b.isLt
  have hc : cin.toNat ≤ 1 := by cases cin <;> simp
  simp only [add8, outsideSigned, byte_msb, byte_toInt, BitVec.toNat_ofNat]
  generalize a.toNat = x at *
  generalize b.toNat = y at *
  generalize cin.toNat = k at *
  rw [Bool.eq_iff_iff]
  simp only [Bool.or_eq_true, Bool.and_eq_true, decide_eq_true_eq, beq_iff_eq, bne_iff_ne, ne_eq,
    decide_eq_decide]
  split <;> split <;> omega

theorem sub8_r : (sub8 a b cin).r = a - b - (if cin then 1 else 0) := by
  cases cin <;> simp only [sub8] <;> apply BitVec.eq_of_toNat_eq <;>
    simp [BitVec.toNat_sub, BitVec.toNat_ofInt] <;> omega

/-- The borrow. -/
theorem sub8_c : (sub8 a b cin).c = decide (a.toNat < b.toNat + if cin then 1 else 0) := by
  rw [Bool.eq_iff_iff]
  cases cin <;> simp [sub8] <;> omega

/-- Overflow of a difference: unequal signs, and the result's differs from the minuend's. -/
theorem sub8_v :
    (sub8 a b cin).v = (a.msb != b.msb && (sub8 a b cin).r.msb != a.msb) := by
  have ha := a.isLt
  have hb := b.isLt
  have hc : cin.toNat ≤ 1 := by cases cin <;> simp
  have hr : (sub8 a b cin).r.toNat =
      (((a.toNat : Int) - b.toNat - cin.toNat) % 256).toNat := by
    simp [sub8, BitVec.toNat_ofInt]
  rw [byte_msb (sub8 a b cin).r, hr]
  simp only [sub8, outsideSigned, byte_msb, byte_toInt]
  generalize a.toNat = x at *
  generalize b.toNat = y at *
  generalize cin.toNat = k at *
  rw [Bool.eq_iff_iff]
  simp only [Bool.or_eq_true, Bool.and_eq_true, decide_eq_true_eq, bne_iff_ne, ne_eq,
    decide_eq_decide]
  split <;> split <;> omega

end sums

end Sys2Proof.Machine
end

