-- ==== Sys2Proof/Laws/Lines.lean ====
section
/-! SUPPORT. No instruction reads the input lines (00_scope.md R20: they are sampled at boundaries only): every
operation commutes with a change of the lines. -/

namespace Sys2Proof.Machine

/-- The state with other input lines. -/
def State.withLines (s : State) (l : List Boundary) : State := { s with lines := l }

section withLines

variable (l : List Boundary) (s : State) (a v : Byte) (c : CC)

@[simp] theorem State.withLines_setA : (s.withLines l).setA v = (s.setA v).withLines l := rfl
@[simp] theorem State.withLines_setX : (s.withLines l).setX v = (s.setX v).withLines l := rfl
@[simp] theorem State.withLines_setY : (s.withLines l).setY v = (s.setY v).withLines l := rfl
@[simp] theorem State.withLines_setSP : (s.withLines l).setSP v = (s.setSP v).withLines l := rfl
@[simp] theorem State.withLines_setPC : (s.withLines l).setPC v = (s.setPC v).withLines l := rfl
@[simp] theorem State.withLines_setCC : (s.withLines l).setCC c = (s.setCC c).withLines l := rfl
@[simp] theorem State.withLines_a : (s.withLines l).a = s.a := rfl
@[simp] theorem State.withLines_x : (s.withLines l).x = s.x := rfl
@[simp] theorem State.withLines_y : (s.withLines l).y = s.y := rfl
@[simp] theorem State.withLines_sp : (s.withLines l).sp = s.sp := rfl
@[simp] theorem State.withLines_pc : (s.withLines l).pc = s.pc := rfl
@[simp] theorem State.withLines_cc : (s.withLines l).cc = s.cc := rfl
@[simp] theorem State.withLines_board : (s.withLines l).board = s.board := rfl

@[simp] theorem State.withLines_readVal : (s.withLines l).readVal a = s.readVal a := by
  unfold State.readVal
  split
  · cases ‹Port› <;> rfl
  · rfl

@[simp] theorem State.withLines_afterRead :
    (s.withLines l).afterRead a = (s.afterRead a).withLines l := by
  unfold State.afterRead
  split
  · cases ‹Port› <;> rfl
  · rfl

@[simp] theorem State.withLines_write : (s.withLines l).write a v = (s.write a v).withLines l := by
  unfold State.write
  split
  · rfl
  · show (if s.writable a = true then _ else _) = _
    split <;> rfl

@[simp] theorem push8_withLines : push8 (s.withLines l) v = (push8 s v).withLines l := by
  simp [push8]

@[simp] theorem pull8_withLines : (pull8 (s.withLines l)).2 = (pull8 s).2.withLines l := by
  simp [pull8]

@[simp] theorem preUpdate_withLines (m : MemMode) :
    preUpdate m (s.withLines l) = (preUpdate m s).withLines l := by cases m <;> rfl

@[simp] theorem postUpdate_withLines (m : MemMode) :
    postUpdate m (s.withLines l) = (postUpdate m s).withLines l := by cases m <;> rfl

@[simp] theorem effectiveAddress_withLines (m : MemMode) :
    effectiveAddress m (s.withLines l) = effectiveAddress m s := by cases m <;> rfl

@[simp] theorem operandValue_withLines (o : Operand) :
    operandValue o (s.withLines l) = operandValue o s := by cases o <;> simp [operandValue]

@[simp] theorem readOperand_withLines (o : Operand) :
    (readOperand o (s.withLines l)).2 = (readOperand o s).2.withLines l := by
  cases o <;> simp [readOperand, readMem]

@[simp] theorem branchIf_withLines (taken : Bool) (n : Byte) :
    branchIf taken n (s.withLines l) = (branchIf taken n s).withLines l := by cases taken <;> rfl

end withLines

/-- The meaning of every instruction is the same whatever the input lines. -/
theorem exec_withLines {i : Instr} {s t : State} (l : List Boundary) (h : exec i s = .next t) :
    exec i (s.withLines l) = .next (t.withLines l) := by
  cases i <;>
    (replace h := Host.Outcome.next.inj h; subst h; apply congrArg Host.Outcome.next)
  case illegal => simp [trapEntry, takeException, loadVector, pushFrame]
  case rti => simp [returnFromException]
  case rts | bsr | jsr => simp
  case neg | inc | dec | com | lsl | lsr | rol | ror | asr => simp [modifyMem]
  case stx | sty | stsp | sta | clr => simp [writeMem]
  case tst => simp [readMem]
  case lda | ldx | ldy | ldsp => simp [loadInto]
  case adda | adca | suba | sbca | anda | ora | eora => simp [computeIntoA]
  case bita | cmpa | cmpx | cmpy | cmpsp => simp [compareWith]
  case clra | nega | inca | deca | coma | lsla | lsra | rola | rora | asra => simp [modifyA]
  all_goals first | rfl | simp

/-- The fetch is the same whatever the input lines. -/
theorem fetchInstr_withLines (l : List Boundary) (s : State) :
    fetchInstr (s.withLines l) = ((fetchInstr s).1, (fetchInstr s).2.withLines l) := by
  simp only [fetchInstr, fetch8, State.withLines_readVal, State.withLines_pc,
    State.withLines_afterRead, State.withLines_setPC]
  split <;> rfl

end Sys2Proof.Machine
end

