-- ==== Sys2Proof/Laws/PerInstr.lean ====
section
/-! SUPPORT. The per-instruction family EncodedLength: the encoding of a well-formed instruction has the length
that the fetch passes over, one or two bytes (30_encoding.md R75). -/

open Sys2Proof.Machine

namespace Sys2Proof.Laws.EncodedLength

/-- What the family says of one instruction. -/
def Statement (i : Instr) : Prop :=
  i.wf = true → (encode i).length = byteLength i ∧ 1 ≤ byteLength i ∧ byteLength i ≤ 2

/-- Every mode has at most one operand byte. -/
theorem operandBytes_length (m : MemMode) : m.operandBytes.length ≤ 1 := by cases m <;> exact Nat.le_of_ble_eq_true rfl

theorem operand_operandBytes_length (o : Operand) : o.operandBytes.length ≤ 1 := by
  cases o with
  | im n => exact Nat.le_refl 1
  | mem m => exact operandBytes_length m

/-- The family from the number of operand bytes. -/
theorem of_operandBytes {i : Instr} (h : i.operandBytes.length ≤ 1) : Statement i := by
  intro hw
  simp only [encode, hw, if_true, byteLength, List.length_cons]
  omega

theorem nop : Statement .nop := of_operandBytes (by decide)
theorem andcc (n : Byte) : Statement (.andcc n) := of_operandBytes (Nat.le_refl 1)
theorem orcc (n : Byte) : Statement (.orcc n) := of_operandBytes (Nat.le_refl 1)
theorem illegal (opcode : Byte) : Statement (.illegal opcode) := of_operandBytes (Nat.zero_le 1)
theorem clra : Statement .clra := of_operandBytes (by decide)
theorem nega : Statement .nega := of_operandBytes (by decide)
theorem inca : Statement .inca := of_operandBytes (by decide)
theorem deca : Statement .deca := of_operandBytes (by decide)
theorem tsta : Statement .tsta := of_operandBytes (by decide)
theorem coma : Statement .coma := of_operandBytes (by decide)
theorem lsla : Statement .lsla := of_operandBytes (by decide)
theorem lsra : Statement .lsra := of_operandBytes (by decide)
theorem rola : Statement .rola := of_operandBytes (by decide)
theorem rora : Statement .rora := of_operandBytes (by decide)
theorem asra : Statement .asra := of_operandBytes (by decide)
theorem psha : Statement .psha := of_operandBytes (by decide)
theorem pshx : Statement .pshx := of_operandBytes (by decide)
theorem pshy : Statement .pshy := of_operandBytes (by decide)
theorem pshcc : Statement .pshcc := of_operandBytes (by decide)
theorem pula : Statement .pula := of_operandBytes (by decide)
theorem pulx : Statement .pulx := of_operandBytes (by decide)
theorem puly : Statement .puly := of_operandBytes (by decide)
theorem pulcc : Statement .pulcc := of_operandBytes (by decide)
theorem tfrACC : Statement .tfrACC := of_operandBytes (by decide)
theorem tfrCCA : Statement .tfrCCA := of_operandBytes (by decide)
theorem tfrXY : Statement .tfrXY := of_operandBytes (by decide)
theorem tfrYX : Statement .tfrYX := of_operandBytes (by decide)
theorem tfrXSP : Statement .tfrXSP := of_operandBytes (by decide)
theorem tfrSPX : Statement .tfrSPX := of_operandBytes (by decide)
theorem tfrYSP : Statement .tfrYSP := of_operandBytes (by decide)
theorem tfrSPY : Statement .tfrSPY := of_operandBytes (by decide)
theorem bsr (n : Byte) : Statement (.bsr n) := of_operandBytes (Nat.le_refl 1)
theorem bra (n : Byte) : Statement (.bra n) := of_operandBytes (Nat.le_refl 1)
theorem bmi (n : Byte) : Statement (.bmi n) := of_operandBytes (Nat.le_refl 1)
theorem bpl (n : Byte) : Statement (.bpl n) := of_operandBytes (Nat.le_refl 1)
theorem beq (n : Byte) : Statement (.beq n) := of_operandBytes (Nat.le_refl 1)
theorem bne (n : Byte) : Statement (.bne n) := of_operandBytes (Nat.le_refl 1)
theorem bvs (n : Byte) : Statement (.bvs n) := of_operandBytes (Nat.le_refl 1)
theorem bvc (n : Byte) : Statement (.bvc n) := of_operandBytes (Nat.le_refl 1)
theorem bcs (n : Byte) : Statement (.bcs n) := of_operandBytes (Nat.le_refl 1)
theorem bcc (n : Byte) : Statement (.bcc n) := of_operandBytes (Nat.le_refl 1)
theorem bhi (n : Byte) : Statement (.bhi n) := of_operandBytes (Nat.le_refl 1)
theorem bls (n : Byte) : Statement (.bls n) := of_operandBytes (Nat.le_refl 1)
theorem bgt (n : Byte) : Statement (.bgt n) := of_operandBytes (Nat.le_refl 1)
theorem bge (n : Byte) : Statement (.bge n) := of_operandBytes (Nat.le_refl 1)
theorem ble (n : Byte) : Statement (.ble n) := of_operandBytes (Nat.le_refl 1)
theorem blt (n : Byte) : Statement (.blt n) := of_operandBytes (Nat.le_refl 1)
theorem stx (m : MemMode) : Statement (.stx m) := of_operandBytes (operandBytes_length m)
theorem sty (m : MemMode) : Statement (.sty m) := of_operandBytes (operandBytes_length m)
theorem stsp (m : MemMode) : Statement (.stsp m) := of_operandBytes (operandBytes_length m)
theorem jmp (m : MemMode) : Statement (.jmp m) := of_operandBytes (operandBytes_length m)
theorem jsr (m : MemMode) : Statement (.jsr m) := of_operandBytes (operandBytes_length m)
theorem clr (m : MemMode) : Statement (.clr m) := of_operandBytes (operandBytes_length m)
theorem neg (m : MemMode) : Statement (.neg m) := of_operandBytes (operandBytes_length m)
theorem inc (m : MemMode) : Statement (.inc m) := of_operandBytes (operandBytes_length m)
theorem dec (m : MemMode) : Statement (.dec m) := of_operandBytes (operandBytes_length m)
theorem tst (m : MemMode) : Statement (.tst m) := of_operandBytes (operandBytes_length m)
theorem com (m : MemMode) : Statement (.com m) := of_operandBytes (operandBytes_length m)
theorem lsl (m : MemMode) : Statement (.lsl m) := of_operandBytes (operandBytes_length m)
theorem lsr (m : MemMode) : Statement (.lsr m) := of_operandBytes (operandBytes_length m)
theorem rol (m : MemMode) : Statement (.rol m) := of_operandBytes (operandBytes_length m)
theorem ror (m : MemMode) : Statement (.ror m) := of_operandBytes (operandBytes_length m)
theorem asr (m : MemMode) : Statement (.asr m) := of_operandBytes (operandBytes_length m)
theorem rts : Statement .rts := of_operandBytes (by decide)
theorem rti : Statement .rti := of_operandBytes (by decide)
theorem ldx (o : Operand) : Statement (.ldx o) :=
  of_operandBytes (operand_operandBytes_length o)
theorem ldy (o : Operand) : Statement (.ldy o) :=
  of_operandBytes (operand_operandBytes_length o)
theorem ldsp (o : Operand) : Statement (.ldsp o) :=
  of_operandBytes (operand_operandBytes_length o)
theorem sbca (o : Operand) : Statement (.sbca o) :=
  of_operandBytes (operand_operandBytes_length o)
theorem suba (o : Operand) : Statement (.suba o) :=
  of_operandBytes (operand_operandBytes_length o)
theorem adca (o : Operand) : Statement (.adca o) :=
  of_operandBytes (operand_operandBytes_length o)
theorem adda (o : Operand) : Statement (.adda o) :=
  of_operandBytes (operand_operandBytes_length o)
theorem cmpa (o : Operand) : Statement (.cmpa o) :=
  of_operandBytes (operand_operandBytes_length o)
theorem bita (o : Operand) : Statement (.bita o) :=
  of_operandBytes (operand_operandBytes_length o)
theorem anda (o : Operand) : Statement (.anda o) :=
  of_operandBytes (operand_operandBytes_length o)
theorem ora (o : Operand) : Statement (.ora o) :=
  of_operandBytes (operand_operandBytes_length o)
theorem eora (o : Operand) : Statement (.eora o) :=
  of_operandBytes (operand_operandBytes_length o)
theorem cmpx (o : Operand) : Statement (.cmpx o) :=
  of_operandBytes (operand_operandBytes_length o)
theorem cmpy (o : Operand) : Statement (.cmpy o) :=
  of_operandBytes (operand_operandBytes_length o)
theorem cmpsp (o : Operand) : Statement (.cmpsp o) :=
  of_operandBytes (operand_operandBytes_length o)
theorem exgACC : Statement .exgACC := of_operandBytes (by decide)
theorem exgXY : Statement .exgXY := of_operandBytes (by decide)
theorem leasp (m : MemMode) : Statement (.leasp m) := of_operandBytes (operandBytes_length m)
theorem exgXSP : Statement .exgXSP := of_operandBytes (by decide)
theorem leax (m : MemMode) : Statement (.leax m) := of_operandBytes (operandBytes_length m)
theorem leay (m : MemMode) : Statement (.leay m) := of_operandBytes (operandBytes_length m)
theorem exgYSP : Statement .exgYSP := of_operandBytes (by decide)
theorem sta (m : MemMode) : Statement (.sta m) := of_operandBytes (operandBytes_length m)
theorem lda (o : Operand) : Statement (.lda o) :=
  of_operandBytes (operand_operandBytes_length o)

end Sys2Proof.Laws.EncodedLength
end

