-- ==== Sys2Proof/Tests/Slice0.lean ====
section
/-! SUPPORT. The tests of the model: ill-formed instructions refused, words written out from the opcode map,
one-step vectors from 95_test_vectors.md, the assembler, and for each obligation with hypotheses a state
that meets them. -/

namespace Sys2Proof.Tests

open Sys2Proof Sys2Proof.Machine

/-! Ill-formed instructions: one for each check of WellFormed.lean, refused (30_encoding.md R96). -/

theorem test_illformed_illegal : (Instr.illegal 0x00).wf = false := by decide
theorem test_illformed_plain :
    [Instr.stx .xPostInc, .sty .yPreDec, .stsp .xPreInc, .clr .xPostInc, .neg .xPostInc,
      .inc .xPostInc, .dec .xPostInc, .tst .yPostDec, .com .xPostInc, .lsl .xPostInc, .lsr .xPostInc,
      .rol .xPostInc, .ror .xPostInc, .asr .yPreInc].all (fun i => !i.wf) = true := by decide
theorem test_illformed_jump :
    [Instr.jmp (.ns 0x00), .jsr (.ns 0xFF), .jmp .xPostInc].all (fun i => !i.wf) = true := by decide
theorem test_illformed_leax : (Instr.leax (.ny 0x00)).wf = false := by decide
theorem test_illformed_leay : (Instr.leay (.nx 0x00)).wf = false := by decide
theorem test_illformed_leasp : (Instr.leasp (.ab 0x00)).wf = false := by decide
theorem test_illformed_binary :
    [Instr.ldx (.mem .ax), .ldy (.mem .xPostInc), .ldsp (.mem .ay), .sbca (.mem .ax),
      .suba (.mem .ax), .adca (.mem .ax), .adda (.mem .ay), .cmpa (.mem .ax), .bita (.mem .ax),
      .anda (.mem .ax), .ora (.mem .ax), .eora (.mem .yPreDec)].all (fun i => !i.wf) = true := by
  decide
theorem test_illformed_cmpXY :
    [Instr.cmpx (.mem (.nx 0x00)), .cmpy (.mem (.ny 0x00))].all (fun i => !i.wf) = true := by decide
theorem test_illformed_cmpSP : (Instr.cmpsp (.mem (.ns 0x00))).wf = false := by decide

/-- An ill-formed instruction has no encoding. -/
theorem test_illformed_encode : encode (.leax (.ny 0x00)) = [] := by decide

/-! Every word of the opcode map (spec/opcode_table.json, 30_encoding.md R80), the operand byte $5A: it decodes
to the instruction with nothing left, the instruction's encoding is the word, and the cycles are the
table's (70_reset_and_hazards.md R289). -/

/-- The words read and written as these instructions, with these cycles. -/
def words (rows : List (List Byte × Instr × Option Nat)) : Bool :=
  rows.all fun row =>
    (match decode row.1 with
      | .ok (i, rest) => i == row.2.1 && rest == []
      | .error _ => false) &&
    encode row.2.1 == row.1 && cycles row.2.1 == row.2.2

theorem test_words_column0 : words
    [([0x00], .nop, some 2), ([0x01, 0x5A], .andcc 0x5A, some 4),
     ([0x02, 0x5A], .orcc 0x5A, some 4), ([0x03], .illegal 0x03, none),
     ([0x04], .illegal 0x04, none), ([0x05], .clra, some 3), ([0x06], .nega, some 3),
     ([0x07], .inca, some 3), ([0x08], .deca, some 3), ([0x09], .tsta, some 2),
     ([0x0A], .coma, some 3), ([0x0B], .lsla, some 3), ([0x0C], .lsra, some 3),
     ([0x0D], .rola, some 3), ([0x0E], .rora, some 3), ([0x0F], .asra, some 3)] = true := by decide

theorem test_words_column1 : words
    [([0x10], .psha, some 3), ([0x11], .pshx, some 3), ([0x12], .pshy, some 3),
     ([0x13], .pshcc, some 3), ([0x14], .pula, some 3), ([0x15], .pulx, some 3),
     ([0x16], .puly, some 3), ([0x17], .pulcc, some 3), ([0x18], .tfrACC, some 2),
     ([0x19], .tfrCCA, some 2), ([0x1A], .tfrXY, some 2), ([0x1B], .tfrYX, some 2),
     ([0x1C], .tfrXSP, some 2), ([0x1D], .tfrSPX, some 2), ([0x1E], .tfrYSP, some 2),
     ([0x1F], .tfrSPY, some 2)] = true := by decide

theorem test_words_column2 : words
    [([0x20, 0x5A], .bsr 0x5A, some 5), ([0x21, 0x5A], .bra 0x5A, some 4),
     ([0x22, 0x5A], .bmi 0x5A, some 4), ([0x23, 0x5A], .bpl 0x5A, some 4),
     ([0x24, 0x5A], .beq 0x5A, some 4), ([0x25, 0x5A], .bne 0x5A, some 4),
     ([0x26, 0x5A], .bvs 0x5A, some 4), ([0x27, 0x5A], .bvc 0x5A, some 4),
     ([0x28, 0x5A], .bcs 0x5A, some 4), ([0x29, 0x5A], .bcc 0x5A, some 4),
     ([0x2A, 0x5A], .bhi 0x5A, some 4), ([0x2B, 0x5A], .bls 0x5A, some 4),
     ([0x2C, 0x5A], .bgt 0x5A, some 4), ([0x2D, 0x5A], .bge 0x5A, some 4),
     ([0x2E, 0x5A], .ble 0x5A, some 4), ([0x2F, 0x5A], .blt 0x5A, some 4)] = true := by decide

theorem test_words_column3 : words
    [([0x30, 0x5A], .stx (.ab 0x5A), some 3), ([0x31, 0x5A], .sty (.ab 0x5A), some 3),
     ([0x32, 0x5A], .stsp (.ab 0x5A), some 3), ([0x33, 0x5A], .jmp (.ab 0x5A), some 2),
     ([0x34, 0x5A], .jsr (.ab 0x5A), some 4), ([0x35, 0x5A], .clr (.ab 0x5A), some 3),
     ([0x36, 0x5A], .neg (.ab 0x5A), some 4), ([0x37, 0x5A], .inc (.ab 0x5A), some 4),
     ([0x38, 0x5A], .dec (.ab 0x5A), some 4), ([0x39, 0x5A], .tst (.ab 0x5A), some 3),
     ([0x3A, 0x5A], .com (.ab 0x5A), some 4), ([0x3B, 0x5A], .lsl (.ab 0x5A), some 4),
     ([0x3C, 0x5A], .lsr (.ab 0x5A), some 4), ([0x3D, 0x5A], .rol (.ab 0x5A), some 4),
     ([0x3E, 0x5A], .ror (.ab 0x5A), some 4),
     ([0x3F, 0x5A], .asr (.ab 0x5A), some 4)] = true := by decide

theorem test_words_column4 : words
    [([0x40, 0x5A], .stx (.ns 0x5A), some 3), ([0x41, 0x5A], .sty (.ns 0x5A), some 3),
     ([0x42, 0x5A], .stsp (.ns 0x5A), some 3), ([0x43], .rts, some 2), ([0x44], .rti, some 6),
     ([0x45, 0x5A], .clr (.ns 0x5A), some 3), ([0x46, 0x5A], .neg (.ns 0x5A), some 4),
     ([0x47, 0x5A], .inc (.ns 0x5A), some 4), ([0x48, 0x5A], .dec (.ns 0x5A), some 4),
     ([0x49, 0x5A], .tst (.ns 0x5A), some 3), ([0x4A, 0x5A], .com (.ns 0x5A), some 4),
     ([0x4B, 0x5A], .lsl (.ns 0x5A), some 4), ([0x4C, 0x5A], .lsr (.ns 0x5A), some 4),
     ([0x4D, 0x5A], .rol (.ns 0x5A), some 4), ([0x4E, 0x5A], .ror (.ns 0x5A), some 4),
     ([0x4F, 0x5A], .asr (.ns 0x5A), some 4)] = true := by decide

theorem test_words_column5 : words
    [([0x50, 0x5A], .stx (.nx 0x5A), some 3), ([0x51, 0x5A], .sty (.nx 0x5A), some 3),
     ([0x52, 0x5A], .stsp (.nx 0x5A), some 3), ([0x53, 0x5A], .jmp (.nx 0x5A), some 4),
     ([0x54, 0x5A], .jsr (.nx 0x5A), some 5), ([0x55, 0x5A], .clr (.nx 0x5A), some 3),
     ([0x56, 0x5A], .neg (.nx 0x5A), some 4), ([0x57, 0x5A], .inc (.nx 0x5A), some 4),
     ([0x58, 0x5A], .dec (.nx 0x5A), some 4), ([0x59, 0x5A], .tst (.nx 0x5A), some 3),
     ([0x5A, 0x5A], .com (.nx 0x5A), some 4), ([0x5B, 0x5A], .lsl (.nx 0x5A), some 4),
     ([0x5C, 0x5A], .lsr (.nx 0x5A), some 4), ([0x5D, 0x5A], .rol (.nx 0x5A), some 4),
     ([0x5E, 0x5A], .ror (.nx 0x5A), some 4),
     ([0x5F, 0x5A], .asr (.nx 0x5A), some 4)] = true := by decide

theorem test_words_column6 : words
    [([0x60], .stx .ax, some 3), ([0x61], .sty .ax, some 3), ([0x62], .stsp .ax, some 3),
     ([0x63], .jmp .ax, some 4), ([0x64], .jsr .ax, some 5), ([0x65], .clr .ax, some 3),
     ([0x66], .neg .ax, some 4), ([0x67], .inc .ax, some 4), ([0x68], .dec .ax, some 4),
     ([0x69], .tst .ax, some 3), ([0x6A], .com .ax, some 4), ([0x6B], .lsl .ax, some 4),
     ([0x6C], .lsr .ax, some 4), ([0x6D], .rol .ax, some 4), ([0x6E], .ror .ax, some 4),
     ([0x6F], .asr .ax, some 4)] = true := by decide

theorem test_words_column7 : words
    [([0x70, 0x5A], .stx (.ny 0x5A), some 3), ([0x71, 0x5A], .sty (.ny 0x5A), some 3),
     ([0x72, 0x5A], .stsp (.ny 0x5A), some 3), ([0x73, 0x5A], .jmp (.ny 0x5A), some 4),
     ([0x74, 0x5A], .jsr (.ny 0x5A), some 5), ([0x75, 0x5A], .clr (.ny 0x5A), some 3),
     ([0x76, 0x5A], .neg (.ny 0x5A), some 4), ([0x77, 0x5A], .inc (.ny 0x5A), some 4),
     ([0x78, 0x5A], .dec (.ny 0x5A), some 4), ([0x79, 0x5A], .tst (.ny 0x5A), some 3),
     ([0x7A, 0x5A], .com (.ny 0x5A), some 4), ([0x7B, 0x5A], .lsl (.ny 0x5A), some 4),
     ([0x7C, 0x5A], .lsr (.ny 0x5A), some 4), ([0x7D, 0x5A], .rol (.ny 0x5A), some 4),
     ([0x7E, 0x5A], .ror (.ny 0x5A), some 4),
     ([0x7F, 0x5A], .asr (.ny 0x5A), some 4)] = true := by decide

theorem test_words_column8 : words
    [([0x80], .stx .ay, some 3), ([0x81], .sty .ay, some 3), ([0x82], .stsp .ay, some 3),
     ([0x83], .jmp .ay, some 4), ([0x84], .jsr .ay, some 5), ([0x85], .clr .ay, some 3),
     ([0x86], .neg .ay, some 4), ([0x87], .inc .ay, some 4), ([0x88], .dec .ay, some 4),
     ([0x89], .tst .ay, some 3), ([0x8A], .com .ay, some 4), ([0x8B], .lsl .ay, some 4),
     ([0x8C], .lsr .ay, some 4), ([0x8D], .rol .ay, some 4), ([0x8E], .ror .ay, some 4),
     ([0x8F], .asr .ay, some 4)] = true := by decide

theorem test_words_column9 : words
    [([0x90, 0x5A], .ldx (.im 0x5A), some 2), ([0x91, 0x5A], .ldy (.im 0x5A), some 2),
     ([0x92, 0x5A], .ldsp (.im 0x5A), some 2), ([0x93, 0x5A], .sbca (.im 0x5A), some 4),
     ([0x94, 0x5A], .suba (.im 0x5A), some 4), ([0x95, 0x5A], .adca (.im 0x5A), some 4),
     ([0x96, 0x5A], .adda (.im 0x5A), some 4), ([0x97, 0x5A], .cmpa (.im 0x5A), some 3),
     ([0x98, 0x5A], .bita (.im 0x5A), some 3), ([0x99, 0x5A], .anda (.im 0x5A), some 4),
     ([0x9A, 0x5A], .ora (.im 0x5A), some 4), ([0x9B, 0x5A], .eora (.im 0x5A), some 4),
     ([0x9C, 0x5A], .cmpx (.im 0x5A), some 3), ([0x9D, 0x5A], .cmpy (.im 0x5A), some 3),
     ([0x9E, 0x5A], .cmpsp (.im 0x5A), some 3), ([0x9F], .exgACC, some 4)] = true := by decide

theorem test_words_columnA : words
    [([0xA0, 0x5A], .ldx (.mem (.ab 0x5A)), some 3), ([0xA1, 0x5A], .ldy (.mem (.ab 0x5A)), some 3),
     ([0xA2, 0x5A], .ldsp (.mem (.ab 0x5A)), some 3),
     ([0xA3, 0x5A], .sbca (.mem (.ab 0x5A)), some 5),
     ([0xA4, 0x5A], .suba (.mem (.ab 0x5A)), some 5),
     ([0xA5, 0x5A], .adca (.mem (.ab 0x5A)), some 5),
     ([0xA6, 0x5A], .adda (.mem (.ab 0x5A)), some 5),
     ([0xA7, 0x5A], .cmpa (.mem (.ab 0x5A)), some 4),
     ([0xA8, 0x5A], .bita (.mem (.ab 0x5A)), some 4),
     ([0xA9, 0x5A], .anda (.mem (.ab 0x5A)), some 5),
     ([0xAA, 0x5A], .ora (.mem (.ab 0x5A)), some 5),
     ([0xAB, 0x5A], .eora (.mem (.ab 0x5A)), some 5),
     ([0xAC, 0x5A], .cmpx (.mem (.ab 0x5A)), some 4),
     ([0xAD, 0x5A], .cmpy (.mem (.ab 0x5A)), some 4),
     ([0xAE, 0x5A], .cmpsp (.mem (.ab 0x5A)), some 4), ([0xAF], .exgXY, some 4)] = true := by decide

theorem test_words_columnB : words
    [([0xB0, 0x5A], .ldx (.mem (.ns 0x5A)), some 3), ([0xB1, 0x5A], .ldy (.mem (.ns 0x5A)), some 3),
     ([0xB2, 0x5A], .ldsp (.mem (.ns 0x5A)), some 3),
     ([0xB3, 0x5A], .sbca (.mem (.ns 0x5A)), some 5),
     ([0xB4, 0x5A], .suba (.mem (.ns 0x5A)), some 5),
     ([0xB5, 0x5A], .adca (.mem (.ns 0x5A)), some 5),
     ([0xB6, 0x5A], .adda (.mem (.ns 0x5A)), some 5),
     ([0xB7, 0x5A], .cmpa (.mem (.ns 0x5A)), some 4),
     ([0xB8, 0x5A], .bita (.mem (.ns 0x5A)), some 4),
     ([0xB9, 0x5A], .anda (.mem (.ns 0x5A)), some 5),
     ([0xBA, 0x5A], .ora (.mem (.ns 0x5A)), some 5),
     ([0xBB, 0x5A], .eora (.mem (.ns 0x5A)), some 5),
     ([0xBC, 0x5A], .cmpx (.mem (.ns 0x5A)), some 4),
     ([0xBD, 0x5A], .cmpy (.mem (.ns 0x5A)), some 4), ([0xBE, 0x5A], .leasp (.ns 0x5A), some 4),
     ([0xBF], .exgXSP, some 4)] = true := by decide

theorem test_words_columnC : words
    [([0xC0, 0x5A], .ldx (.mem (.nx 0x5A)), some 3), ([0xC1, 0x5A], .ldy (.mem (.nx 0x5A)), some 3),
     ([0xC2, 0x5A], .ldsp (.mem (.nx 0x5A)), some 3),
     ([0xC3, 0x5A], .sbca (.mem (.nx 0x5A)), some 5),
     ([0xC4, 0x5A], .suba (.mem (.nx 0x5A)), some 5),
     ([0xC5, 0x5A], .adca (.mem (.nx 0x5A)), some 5),
     ([0xC6, 0x5A], .adda (.mem (.nx 0x5A)), some 5),
     ([0xC7, 0x5A], .cmpa (.mem (.nx 0x5A)), some 4),
     ([0xC8, 0x5A], .bita (.mem (.nx 0x5A)), some 4),
     ([0xC9, 0x5A], .anda (.mem (.nx 0x5A)), some 5),
     ([0xCA, 0x5A], .ora (.mem (.nx 0x5A)), some 5),
     ([0xCB, 0x5A], .eora (.mem (.nx 0x5A)), some 5), ([0xCC, 0x5A], .leax (.nx 0x5A), some 4),
     ([0xCD, 0x5A], .leay (.ny 0x5A), some 4), ([0xCE, 0x5A], .leasp (.nx 0x5A), some 4),
     ([0xCF], .exgYSP, some 4)] = true := by decide

theorem test_words_columnD : words
    [([0xD0, 0x5A], .ldx (.mem (.ny 0x5A)), some 3), ([0xD1, 0x5A], .ldy (.mem (.ny 0x5A)), some 3),
     ([0xD2, 0x5A], .ldsp (.mem (.ny 0x5A)), some 3),
     ([0xD3, 0x5A], .sbca (.mem (.ny 0x5A)), some 5),
     ([0xD4, 0x5A], .suba (.mem (.ny 0x5A)), some 5),
     ([0xD5, 0x5A], .adca (.mem (.ny 0x5A)), some 5),
     ([0xD6, 0x5A], .adda (.mem (.ny 0x5A)), some 5),
     ([0xD7, 0x5A], .cmpa (.mem (.ny 0x5A)), some 4),
     ([0xD8, 0x5A], .bita (.mem (.ny 0x5A)), some 4),
     ([0xD9, 0x5A], .anda (.mem (.ny 0x5A)), some 5),
     ([0xDA, 0x5A], .ora (.mem (.ny 0x5A)), some 5),
     ([0xDB, 0x5A], .eora (.mem (.ny 0x5A)), some 5), ([0xDC, 0x5A], .leax (.ns 0x5A), some 4),
     ([0xDD, 0x5A], .leay (.ns 0x5A), some 4), ([0xDE, 0x5A], .leasp (.ny 0x5A), some 4),
     ([0xDF], .illegal 0xDF, none)] = true := by decide

theorem test_words_columnE : words
    [([0xE0], .illegal 0xE0, none), ([0xE1, 0x5A], .sta (.ab 0x5A), some 3),
     ([0xE2, 0x5A], .sta (.ns 0x5A), some 3), ([0xE3, 0x5A], .sta (.nx 0x5A), some 3),
     ([0xE4], .sta .ax, some 3), ([0xE5], .sta .xPostInc, some 4), ([0xE6], .sta .xPostDec, some 4),
     ([0xE7], .sta .xPreInc, some 4), ([0xE8], .sta .xPreDec, some 4),
     ([0xE9, 0x5A], .sta (.ny 0x5A), some 3), ([0xEA], .sta .ay, some 3),
     ([0xEB], .sta .yPostInc, some 4), ([0xEC], .sta .yPostDec, some 4),
     ([0xED], .sta .yPreInc, some 4), ([0xEE], .sta .yPreDec, some 4),
     ([0xEF], .illegal 0xEF, none)] = true := by decide

theorem test_words_columnF : words
    [([0xF0, 0x5A], .lda (.im 0x5A), some 2), ([0xF1, 0x5A], .lda (.mem (.ab 0x5A)), some 3),
     ([0xF2, 0x5A], .lda (.mem (.ns 0x5A)), some 3), ([0xF3, 0x5A], .lda (.mem (.nx 0x5A)), some 3),
     ([0xF4], .lda (.mem .ax), some 3), ([0xF5], .lda (.mem .xPostInc), some 4),
     ([0xF6], .lda (.mem .xPostDec), some 4), ([0xF7], .lda (.mem .xPreInc), some 4),
     ([0xF8], .lda (.mem .xPreDec), some 4), ([0xF9, 0x5A], .lda (.mem (.ny 0x5A)), some 3),
     ([0xFA], .lda (.mem .ay), some 3), ([0xFB], .lda (.mem .yPostInc), some 4),
     ([0xFC], .lda (.mem .yPostDec), some 4), ([0xFD], .lda (.mem .yPreInc), some 4),
     ([0xFE], .lda (.mem .yPreDec), some 4), ([0xFF], .illegal 0xFF, none)] = true := by decide

/-- A string of bytes too short for an instruction is refused by name. -/
theorem test_decode_short :
    (match decode [], decode [0x01] with
      | .error e, .error f => e == .noOpcodeByte && f == .noOperandByte 0x01
      | _, _ => false) = true := by decide

/-! Single steps.  The expected results are those of the vectors of 95_test_vectors.md section 2 whose
identifiers end the names. -/

/-- One entry of a vector's "before" or "after" column. -/
inductive Entry where
  | a (v : Byte)
  | x (v : Byte)
  | y (v : Byte)
  | sp (v : Byte)
  | pc (v : Byte)
  | cc (v : Byte)
  | cell (a v : Byte)
  | presents (p : Port) (v : Byte)
  | consumed (p : Port)
  | sent (p : Port) (v : Byte)
  | irqUp
deriving DecidableEq, Repr

/-- A state with one entry put into it. -/
def put (s : State) : Entry → State
  | .a v => s.setA v
  | .x v => s.setX v
  | .y v => s.setY v
  | .sp v => s.setSP v
  | .pc v => s.setPC v
  | .cc v => s.setCC (CC.ofByte v)
  | .cell a v => s.setCell a v
  | .presents p v => s.setPort p { s.port p with pending := v :: (s.port p).pending }
  | .consumed p => s.setPort p (s.port p).consume
  | .sent p v => s.emit p v
  | .irqUp => { s with lines := [{ reset := .idle, irq := true }] }

/-- The state before a vector: the defaults of section 2, the bytes at an address and PC there. -/
def before (address : Byte) (bytes : List Byte) (entries : List Entry) : State :=
  entries.foldl put
    (({ State.reset with sp := 0xF0, pc := address, cc := CC.ofByte 0 } : State).placeInstr bytes)

/-- The step from the state before leads to that state with the entries after put into it, the boundary
behind and nothing else changed. -/
def gives (address : Byte) (bytes : List Byte) (pre post : List Entry) : Bool :=
  match step (before address bytes pre) with
  | .next t => t == post.foldl put (before address bytes pre).passBoundary
  | _ => false

theorem test_lda_LS5 : gives 0x20 [0xF3, 0xFF] [.x 0x00, .cell 0xFF 0x99]
    [.a 0x99, .pc 0x22, .cc 0x08] = true := by decide
theorem test_lda_LS11 : gives 0x20 [0xF5] [.x 0xFF, .cell 0xFF 0x66]
    [.a 0x66, .x 0x00, .pc 0x21, .cc 0x00] = true := by decide
theorem test_ldx_LS18 : gives 0x20 [0xC0, 0x01] [.x 0x30, .cell 0x31 0x80]
    [.x 0x80, .pc 0x22, .cc 0x08] = true := by decide
theorem test_ldy_LS20 : gives 0x20 [0xB1, 0x01] [.sp 0xF0, .cell 0xF1 0x42]
    [.y 0x42, .pc 0x22, .cc 0x00] = true := by decide
theorem test_ldsp_LS21 : gives 0x20 [0x92, 0xFB] [.sp 0x00]
    [.sp 0xFB, .pc 0x22, .cc 0x08] = true := by decide
theorem test_ldsp_LS22 : gives 0x20 [0xD2, 0x02] [.y 0x40, .cell 0x42 0x00]
    [.sp 0x00, .pc 0x22, .cc 0x04] = true := by decide
theorem test_leax_LS24 : gives 0x20 [0xCC, 0xFF] [.x 0x00]
    [.x 0xFF, .pc 0x22, .cc 0x00] = true := by decide
theorem test_leax_LS25 : gives 0x20 [0xDC, 0x02] [.sp 0xF0]
    [.x 0xF2, .pc 0x22, .cc 0x00] = true := by decide
theorem test_leay_LS26 : gives 0x20 [0xCD, 0x01] [.y 0xFF]
    [.y 0x00, .pc 0x22, .cc 0x00] = true := by decide
theorem test_leasp_LS28 : gives 0x20 [0xBE, 0xFE] [.sp 0xF0]
    [.sp 0xEE, .pc 0x22, .cc 0x00] = true := by decide
theorem test_leasp_LS30 : gives 0x20 [0xDE, 0x10] [.y 0xF8]
    [.sp 0x08, .pc 0x22, .cc 0x00] = true := by decide
theorem test_sta_LS39 : gives 0x20 [0xEE] [.a 0x77, .y 0x50]
    [.y 0x4F, .pc 0x21, .cc 0x00, .cell 0x4F 0x77] = true := by decide
theorem test_sta_LS40 : gives 0x20 [0xE1, 0xFC] [.a 0x3C]
    [.pc 0x22, .cc 0x00, .sent .fc 0x3C] = true := by decide
theorem test_stx_LS42 : gives 0x20 [0x60] [.a 0x03, .x 0x40]
    [.pc 0x21, .cc 0x00, .cell 0x43 0x40] = true := by decide
theorem test_sty_LS43 : gives 0x20 [0x61] [.a 0x03, .x 0x40, .y 0xEE]
    [.pc 0x21, .cc 0x00, .cell 0x43 0xEE] = true := by decide
theorem test_sty_LS44 : gives 0x20 [0x71, 0x02] [.y 0x40]
    [.pc 0x22, .cc 0x00, .cell 0x42 0x40] = true := by decide
theorem test_stsp_LS46 : gives 0x20 [0x42, 0x00] [.sp 0x80]
    [.pc 0x22, .cc 0x00, .cell 0x80 0x80] = true := by decide
theorem test_tfracc_DM1 : gives 0x20 [0x18] [.a 0xFF]
    [.pc 0x21, .cc 0x1F] = true := by decide
theorem test_tfracc_DM2 : gives 0x20 [0x18] [.a 0x00, .cc 0x1F]
    [.pc 0x21, .cc 0x00] = true := by decide
theorem test_tfrcca_DM3 : gives 0x20 [0x19] [.a 0xFF, .cc 0x15]
    [.a 0x15, .pc 0x21, .cc 0x15] = true := by decide
theorem test_tfrxy_DM4 : gives 0x20 [0x1A] [.x 0x12, .y 0x34, .cc 0x04]
    [.y 0x12, .pc 0x21, .cc 0x04] = true := by decide
theorem test_tfryx_DM5 : gives 0x20 [0x1B] [.x 0x12, .y 0x34]
    [.x 0x34, .pc 0x21, .cc 0x00] = true := by decide
theorem test_tfrxsp_DM6 : gives 0x20 [0x1C] [.x 0x80]
    [.sp 0x80, .pc 0x21, .cc 0x00] = true := by decide
theorem test_tfrspx_DM7 : gives 0x20 [0x1D] [.x 0x12, .sp 0xF0]
    [.x 0xF0, .pc 0x21, .cc 0x00] = true := by decide
theorem test_tfrysp_DM8 : gives 0x20 [0x1E] [.y 0x00, .sp 0xF0]
    [.sp 0x00, .pc 0x21, .cc 0x00] = true := by decide
theorem test_tfrspy_DM9 : gives 0x20 [0x1F] [.sp 0xF0]
    [.y 0xF0, .pc 0x21, .cc 0x00] = true := by decide
theorem test_exgacc_DM10 : gives 0x20 [0x9F] [.a 0xE5, .cc 0x1A]
    [.a 0x1A, .pc 0x21, .cc 0x05] = true := by decide
theorem test_exgxy_DM11 : gives 0x20 [0xAF] [.x 0x12, .y 0x34]
    [.x 0x34, .y 0x12, .pc 0x21, .cc 0x00] = true := by decide
theorem test_exgxsp_DM12 : gives 0x20 [0xBF] [.x 0x12, .sp 0xF0]
    [.x 0xF0, .sp 0x12, .pc 0x21, .cc 0x00] = true := by decide
theorem test_exgysp_DM13 : gives 0x20 [0xCF] [.y 0x34, .sp 0xF0]
    [.y 0xF0, .sp 0x34, .pc 0x21, .cc 0x00] = true := by decide
theorem test_jmp_FC2 : gives 0x20 [0x53, 0x10] [.x 0xF8]
    [.pc 0x08, .cc 0x00] = true := by decide
theorem test_jmp_FC5 : gives 0x20 [0x83] [.a 0xFF, .y 0x00]
    [.pc 0xFF, .cc 0x00] = true := by decide
theorem test_jsr_FC10 : gives 0x20 [0x74, 0x02] [.x 0x11, .y 0x60, .sp 0xF0]
    [.sp 0xEF, .pc 0x62, .cc 0x00, .cell 0xEF 0x22] = true := by decide
theorem test_jsr_FC12 : gives 0x20 [0x34, 0x80] [.sp 0x00]
    [.sp 0xFF, .pc 0x80, .cc 0x00, .cell 0xFF 0x22] = true := by decide
theorem test_bra_FC15 : gives 0x20 [0x21, 0x80] []
    [.pc 0xA2, .cc 0x00] = true := by decide
theorem test_bra_FC17 : gives 0xFE [0x21, 0x05] []
    [.pc 0x05, .cc 0x00] = true := by decide
theorem test_bsr_FC18 : gives 0x20 [0x20, 0x10] [.sp 0xF0]
    [.sp 0xEF, .pc 0x32, .cc 0x00, .cell 0xEF 0x22] = true := by decide
theorem test_bmi_FC19 : gives 0x20 [0x22, 0x10] [.cc 0x08]
    [.pc 0x32, .cc 0x08] = true := by decide
theorem test_bmi_FC20 : gives 0x20 [0x22, 0x10] [.cc 0x17]
    [.pc 0x22, .cc 0x17] = true := by decide
theorem test_bpl_FC21 : gives 0x20 [0x23, 0x10] [.cc 0x00]
    [.pc 0x32, .cc 0x00] = true := by decide
theorem test_bpl_FC22 : gives 0x20 [0x23, 0x10] [.cc 0x08]
    [.pc 0x22, .cc 0x08] = true := by decide
theorem test_beq_FC23 : gives 0x20 [0x24, 0x10] [.cc 0x04]
    [.pc 0x32, .cc 0x04] = true := by decide
theorem test_beq_FC24 : gives 0x20 [0x24, 0x10] [.cc 0x1B]
    [.pc 0x22, .cc 0x1B] = true := by decide
theorem test_bne_FC25 : gives 0x20 [0x25, 0x10] [.cc 0x00]
    [.pc 0x32, .cc 0x00] = true := by decide
theorem test_bne_FC26 : gives 0x20 [0x25, 0x10] [.cc 0x04]
    [.pc 0x22, .cc 0x04] = true := by decide
theorem test_bvs_FC27 : gives 0x20 [0x26, 0x10] [.cc 0x02]
    [.pc 0x32, .cc 0x02] = true := by decide
theorem test_bvs_FC28 : gives 0x20 [0x26, 0x10] [.cc 0x0D]
    [.pc 0x22, .cc 0x0D] = true := by decide
theorem test_bvc_FC29 : gives 0x20 [0x27, 0x10] [.cc 0x00]
    [.pc 0x32, .cc 0x00] = true := by decide
theorem test_bvc_FC30 : gives 0x20 [0x27, 0x10] [.cc 0x02]
    [.pc 0x22, .cc 0x02] = true := by decide
theorem test_bcs_FC31 : gives 0x20 [0x28, 0x10] [.cc 0x01]
    [.pc 0x32, .cc 0x01] = true := by decide
theorem test_bcs_FC32 : gives 0x20 [0x28, 0x10] [.cc 0x0E]
    [.pc 0x22, .cc 0x0E] = true := by decide
theorem test_bcc_FC33 : gives 0x20 [0x29, 0x10] [.cc 0x00]
    [.pc 0x32, .cc 0x00] = true := by decide
theorem test_bcc_FC34 : gives 0x20 [0x29, 0x10] [.cc 0x01]
    [.pc 0x22, .cc 0x01] = true := by decide
theorem test_bhi_FC35 : gives 0x20 [0x2A, 0x10] [.cc 0x00]
    [.pc 0x32, .cc 0x00] = true := by decide
theorem test_bhi_FC37 : gives 0x20 [0x2A, 0x10] [.cc 0x01]
    [.pc 0x22, .cc 0x01] = true := by decide
theorem test_bls_FC39 : gives 0x20 [0x2B, 0x10] [.cc 0x04]
    [.pc 0x32, .cc 0x04] = true := by decide
theorem test_bls_FC40 : gives 0x20 [0x2B, 0x10] [.cc 0x00]
    [.pc 0x22, .cc 0x00] = true := by decide
theorem test_bgt_FC42 : gives 0x20 [0x2C, 0x10] [.cc 0x0A]
    [.pc 0x32, .cc 0x0A] = true := by decide
theorem test_bgt_FC44 : gives 0x20 [0x2C, 0x10] [.cc 0x08]
    [.pc 0x22, .cc 0x08] = true := by decide
theorem test_bge_FC45 : gives 0x20 [0x2D, 0x10] [.cc 0x0A]
    [.pc 0x32, .cc 0x0A] = true := by decide
theorem test_bge_FC47 : gives 0x20 [0x2D, 0x10] [.cc 0x02]
    [.pc 0x22, .cc 0x02] = true := by decide
theorem test_ble_FC49 : gives 0x20 [0x2E, 0x10] [.cc 0x08]
    [.pc 0x32, .cc 0x08] = true := by decide
theorem test_ble_FC50 : gives 0x20 [0x2E, 0x10] [.cc 0x0A]
    [.pc 0x22, .cc 0x0A] = true := by decide
theorem test_blt_FC52 : gives 0x20 [0x2F, 0x10] [.cc 0x02]
    [.pc 0x32, .cc 0x02] = true := by decide
theorem test_blt_FC53 : gives 0x20 [0x2F, 0x10] [.cc 0x0A]
    [.pc 0x22, .cc 0x0A] = true := by decide
theorem test_rts_FC55 : gives 0x20 [0x43] [.sp 0xEF, .cell 0xEF 0x22]
    [.sp 0xF0, .pc 0x22, .cc 0x00] = true := by decide
theorem test_rts_FC56 : gives 0x20 [0x43] [.sp 0xFF, .cell 0xFF 0x30]
    [.sp 0x00, .pc 0x30, .cc 0x00] = true := by decide
theorem test_rti_FC57 : gives 0x20 [0x44] [.sp 0xEB, .cc 0x10, .cell 0xEB 0x05, .cell 0xEC 0x11, .cell 0xED 0x22, .cell 0xEE 0x33, .cell 0xEF 0x60]
    [.a 0x11, .x 0x22, .y 0x33, .sp 0xF0, .pc 0x60, .cc 0x05] = true := by decide
theorem test_rti_FC58 : gives 0x20 [0x44] [.sp 0xEB, .cell 0xEB 0xFF, .cell 0xEC 0x00, .cell 0xED 0x00, .cell 0xEE 0x00, .cell 0xEF 0x20]
    [.sp 0xF0, .pc 0x20, .cc 0x1F] = true := by decide
theorem test_adda_AR3 : gives 0x20 [0x96, 0x80] [.a 0x80]
    [.a 0x00, .pc 0x22, .cc 0x07] = true := by decide
theorem test_adda_AR6 : gives 0x20 [0xD6, 0x01] [.a 0x01, .y 0x40, .cell 0x41 0x02]
    [.a 0x03, .pc 0x22, .cc 0x00] = true := by decide
theorem test_adca_AR8 : gives 0x20 [0x95, 0x7F] [.a 0x00, .cc 0x01]
    [.a 0x80, .pc 0x22, .cc 0x0A] = true := by decide
theorem test_adca_AR10 : gives 0x20 [0xC5, 0x02] [.a 0x01, .x 0x40, .cc 0x01, .cell 0x42 0xFE]
    [.a 0x00, .pc 0x22, .cc 0x05] = true := by decide
theorem test_suba_AR14 : gives 0x20 [0x94, 0x80] [.a 0x7F]
    [.a 0xFF, .pc 0x22, .cc 0x0B] = true := by decide
theorem test_suba_AR15 : gives 0x20 [0xB4, 0x01] [.a 0x05, .sp 0xF0, .cell 0xF1 0x03]
    [.a 0x02, .pc 0x22, .cc 0x00] = true := by decide
theorem test_sbca_AR16 : gives 0x20 [0x93, 0x00] [.a 0x00, .cc 0x01]
    [.a 0xFF, .pc 0x22, .cc 0x09] = true := by decide
theorem test_sbca_AR18 : gives 0x20 [0x93, 0x7F] [.a 0x00, .cc 0x01]
    [.a 0x80, .pc 0x22, .cc 0x09] = true := by decide
theorem test_clra_AR20 : gives 0x20 [0x05] [.a 0x5A, .cc 0x1B]
    [.a 0x00, .pc 0x21, .cc 0x14] = true := by decide
theorem test_clr_AR22 : gives 0x20 [0x35, 0xFB] []
    [.pc 0x22, .cc 0x04, .sent .fb 0x00] = true := by decide
theorem test_clr_AR23 : gives 0x20 [0x65] [.a 0x02, .x 0x40, .cell 0x42 0x77]
    [.pc 0x21, .cc 0x04, .cell 0x42 0x00] = true := by decide
theorem test_nega_AR25 : gives 0x20 [0x06] [.a 0x00, .cc 0x0B]
    [.pc 0x21, .cc 0x04] = true := by decide
theorem test_nega_AR26 : gives 0x20 [0x06] [.a 0x80]
    [.pc 0x21, .cc 0x0B] = true := by decide
theorem test_neg_AR27 : gives 0x20 [0x36, 0x40] [.cell 0x40 0x7F]
    [.pc 0x22, .cc 0x09, .cell 0x40 0x81] = true := by decide
theorem test_inca_AR28 : gives 0x20 [0x07] [.a 0x7F, .cc 0x01]
    [.a 0x80, .pc 0x21, .cc 0x0B] = true := by decide
theorem test_inca_EX10 : gives 0x20 [0x07] [.a 0x12, .sp 0xF0, .cc 0x10, .cell 0xFD 0x90, .irqUp]
    [.a 0x13, .pc 0x21, .cc 0x10] = true := by decide
theorem test_inc_AR30 : gives 0x20 [0x37, 0x40] [.cell 0x40 0x0F]
    [.pc 0x22, .cc 0x00, .cell 0x40 0x10] = true := by decide
theorem test_inc_AR31 : gives 0x20 [0x47, 0x00] [.sp 0xF0, .cell 0xF0 0xFF]
    [.pc 0x22, .cc 0x04, .cell 0xF0 0x00] = true := by decide
theorem test_deca_AR32 : gives 0x20 [0x08] [.a 0x80, .cc 0x01]
    [.a 0x7F, .pc 0x21, .cc 0x03] = true := by decide
theorem test_deca_AR33 : gives 0x20 [0x08] [.a 0x00]
    [.a 0xFF, .pc 0x21, .cc 0x08] = true := by decide
theorem test_dec_AR35 : gives 0x20 [0x78, 0x01] [.y 0x40, .cell 0x41 0x01]
    [.pc 0x22, .cc 0x04, .cell 0x41 0x00] = true := by decide
theorem test_cmpa_TS3 : gives 0x20 [0x97, 0x01] [.a 0x80]
    [.pc 0x22, .cc 0x02] = true := by decide
theorem test_cmpa_TS4 : gives 0x20 [0x97, 0xFF] [.a 0x00]
    [.pc 0x22, .cc 0x01] = true := by decide
theorem test_cmpx_TS6 : gives 0x20 [0x9C, 0x40] [.x 0x40]
    [.pc 0x22, .cc 0x04] = true := by decide
theorem test_cmpx_TS7 : gives 0x20 [0xBC, 0x01] [.x 0x00, .sp 0xF0, .cell 0xF1 0x01]
    [.pc 0x22, .cc 0x09] = true := by decide
theorem test_cmpy_TS8 : gives 0x20 [0x9D, 0x7F] [.y 0x80]
    [.pc 0x22, .cc 0x02] = true := by decide
theorem test_cmpy_TS9 : gives 0x20 [0xAD, 0x40] [.y 0x05, .cell 0x40 0x06]
    [.pc 0x22, .cc 0x09] = true := by decide
theorem test_cmpsp_TS10 : gives 0x20 [0x9E, 0xF0] [.sp 0xF0]
    [.pc 0x22, .cc 0x04] = true := by decide
theorem test_cmpsp_TS11 : gives 0x20 [0xAE, 0x40] [.sp 0x10, .cell 0x40 0x20]
    [.pc 0x22, .cc 0x09] = true := by decide
theorem test_bita_TS12 : gives 0x20 [0x98, 0x80] [.a 0xFF, .cc 0x03]
    [.pc 0x22, .cc 0x09] = true := by decide
theorem test_tsta_TS15 : gives 0x20 [0x09] [.a 0x80, .cc 0x03]
    [.pc 0x21, .cc 0x08] = true := by decide
theorem test_tsta_TS16 : gives 0x20 [0x09] [.a 0x00, .cc 0x1B]
    [.pc 0x21, .cc 0x14] = true := by decide
theorem test_tst_TS18 : gives 0x20 [0x49, 0x01] [.sp 0xF0, .cell 0xF1 0x80]
    [.pc 0x22, .cc 0x08] = true := by decide
theorem test_tst_TS19 : gives 0x20 [0x39, 0xFC] [.presents .fc 0x80]
    [.pc 0x22, .cc 0x08, .consumed .fc] = true := by decide
theorem test_anda_LG1 : gives 0x20 [0x99, 0x0F] [.a 0xF5, .cc 0x03]
    [.a 0x05, .pc 0x22, .cc 0x01] = true := by decide
theorem test_anda_LG3 : gives 0x20 [0xB9, 0x00] [.a 0xFF, .sp 0xF0, .cell 0xF0 0x80]
    [.a 0x80, .pc 0x22, .cc 0x08] = true := by decide
theorem test_ora_LG4 : gives 0x20 [0x9A, 0x80] [.a 0x01, .cc 0x02]
    [.a 0x81, .pc 0x22, .cc 0x08] = true := by decide
theorem test_eora_LG6 : gives 0x20 [0x9B, 0xFF] [.a 0x55, .cc 0x01]
    [.a 0xAA, .pc 0x22, .cc 0x09] = true := by decide
theorem test_andcc_LG9 : gives 0x20 [0x01, 0xEF] [.cc 0x1F]
    [.pc 0x22, .cc 0x0F] = true := by decide
theorem test_andcc_LG10 : gives 0x20 [0x01, 0xFE] [.cc 0x1F]
    [.pc 0x22, .cc 0x1E] = true := by decide
theorem test_orcc_LG13 : gives 0x20 [0x02, 0xFF] [.cc 0x00]
    [.pc 0x22, .cc 0x1F] = true := by decide
theorem test_orcc_LG14 : gives 0x20 [0x02, 0x01] [.cc 0x04]
    [.pc 0x22, .cc 0x05] = true := by decide
theorem test_coma_LG15 : gives 0x20 [0x0A] [.a 0x55, .cc 0x03]
    [.a 0xAA, .pc 0x21, .cc 0x09] = true := by decide
theorem test_com_LG17 : gives 0x20 [0x3A, 0x40] [.cell 0x40 0x0F]
    [.pc 0x22, .cc 0x08, .cell 0x40 0xF0] = true := by decide
theorem test_lsla_SH2 : gives 0x20 [0x0B] [.a 0x40]
    [.a 0x80, .pc 0x21, .cc 0x0A] = true := by decide
theorem test_lsla_SH3 : gives 0x20 [0x0B] [.a 0xC0, .cc 0x01]
    [.a 0x80, .pc 0x21, .cc 0x09] = true := by decide
theorem test_lsl_SH5 : gives 0x20 [0x3B, 0x40] [.cell 0x40 0xC1]
    [.pc 0x22, .cc 0x09, .cell 0x40 0x82] = true := by decide
theorem test_lsra_SH7 : gives 0x20 [0x0C] [.a 0x01, .cc 0x08]
    [.a 0x00, .pc 0x21, .cc 0x05] = true := by decide
theorem test_lsra_SH8 : gives 0x20 [0x0C] [.a 0xFF, .cc 0x01]
    [.a 0x7F, .pc 0x21, .cc 0x03] = true := by decide
theorem test_lsr_SH9 : gives 0x20 [0x4C, 0x01] [.sp 0xF0, .cell 0xF1 0x02]
    [.pc 0x22, .cc 0x00, .cell 0xF1 0x01] = true := by decide
theorem test_rola_SH10 : gives 0x20 [0x0D] [.a 0x80, .cc 0x01]
    [.a 0x01, .pc 0x21, .cc 0x03] = true := by decide
theorem test_rola_SH13 : gives 0x20 [0x0D] [.a 0x80, .cc 0x00]
    [.a 0x00, .pc 0x21, .cc 0x07] = true := by decide
theorem test_rol_SH14 : gives 0x20 [0x3D, 0x40] [.cc 0x01, .cell 0x40 0x55]
    [.pc 0x22, .cc 0x0A, .cell 0x40 0xAB] = true := by decide
theorem test_rora_SH15 : gives 0x20 [0x0E] [.a 0x01, .cc 0x01]
    [.a 0x80, .pc 0x21, .cc 0x0B] = true := by decide
theorem test_rora_SH16 : gives 0x20 [0x0E] [.a 0x80, .cc 0x00]
    [.a 0x40, .pc 0x21, .cc 0x02] = true := by decide
theorem test_ror_SH19 : gives 0x20 [0x4E, 0x02] [.sp 0xF0, .cc 0x01, .cell 0xF2 0x01]
    [.pc 0x22, .cc 0x0B, .cell 0xF2 0x80] = true := by decide
theorem test_asra_SH20 : gives 0x20 [0x0F] [.a 0x81]
    [.a 0xC0, .pc 0x21, .cc 0x09] = true := by decide
theorem test_asra_SH22 : gives 0x20 [0x0F] [.a 0x01, .cc 0x02]
    [.a 0x00, .pc 0x21, .cc 0x05] = true := by decide
theorem test_asr_SH24 : gives 0x20 [0x8F] [.a 0x01, .y 0x40, .cell 0x41 0x80]
    [.pc 0x21, .cc 0x08, .cell 0x41 0xC0] = true := by decide
theorem test_psha_ST1 : gives 0x20 [0x10] [.a 0xAA, .sp 0xF0]
    [.sp 0xEF, .pc 0x21, .cc 0x00, .cell 0xEF 0xAA] = true := by decide
theorem test_psha_ST5 : gives 0x20 [0x10] [.a 0x99, .sp 0xFD]
    [.sp 0xFC, .pc 0x21, .cc 0x00, .sent .fc 0x99] = true := by decide
theorem test_pshx_ST2 : gives 0x20 [0x11] [.x 0x12, .sp 0x00]
    [.sp 0xFF, .pc 0x21, .cc 0x00, .cell 0xFF 0x12] = true := by decide
theorem test_pshy_ST3 : gives 0x20 [0x12] [.y 0x34, .sp 0xF0]
    [.sp 0xEF, .pc 0x21, .cc 0x00, .cell 0xEF 0x34] = true := by decide
theorem test_pshcc_ST4 : gives 0x20 [0x13] [.cc 0x15, .sp 0xF0]
    [.sp 0xEF, .pc 0x21, .cc 0x15, .cell 0xEF 0x15] = true := by decide
theorem test_pula_ST6 : gives 0x20 [0x14] [.sp 0xEF, .cc 0x04, .cell 0xEF 0xAA]
    [.a 0xAA, .sp 0xF0, .pc 0x21, .cc 0x04] = true := by decide
theorem test_pulx_ST7 : gives 0x20 [0x15] [.sp 0xFF, .cell 0xFF 0x12]
    [.x 0x12, .sp 0x00, .pc 0x21, .cc 0x00] = true := by decide
theorem test_puly_ST8 : gives 0x20 [0x16] [.y 0x55, .sp 0xEF, .cell 0xEF 0x00]
    [.y 0x00, .sp 0xF0, .pc 0x21, .cc 0x00] = true := by decide
theorem test_pulcc_ST9 : gives 0x20 [0x17] [.sp 0xEF, .cell 0xEF 0xFF]
    [.sp 0xF0, .pc 0x21, .cc 0x1F] = true := by decide
theorem test_pulcc_ST10 : gives 0x20 [0x17] [.sp 0xEF, .cc 0x1F, .cell 0xEF 0xE0]
    [.sp 0xF0, .pc 0x21, .cc 0x00] = true := by decide
theorem test_nop_ST12 : gives 0xFF [0x00] []
    [.pc 0x00, .cc 0x00] = true := by decide
theorem test_trap_EX1 : gives 0x20 [0x03] [.a 0x11, .x 0x22, .y 0x33, .sp 0xF0, .cc 0x09, .cell 0xFE 0x80]
    [.sp 0xEB, .pc 0x80, .cc 0x19, .cell 0xEF 0x21, .cell 0xEE 0x33, .cell 0xED 0x22, .cell 0xEC 0x11, .cell 0xEB 0x09] = true := by decide
theorem test_trap_EX8 : gives 0x20 [0x03, 0x55] [.sp 0x03, .cc 0x00, .cell 0xFE 0x80]
    [.sp 0xFE, .pc 0x00, .cc 0x10, .cell 0x02 0x21, .cell 0x01 0x00, .cell 0x00 0x00, .cell 0xFF 0x00, .cell 0xFE 0x00] = true := by decide
theorem test_irq_EX9 : gives 0x20 [0x07] [.a 0x12, .x 0x22, .y 0x33, .sp 0xF0, .cc 0x00, .cell 0xFD 0x90, .irqUp]
    [.sp 0xEB, .pc 0x90, .cc 0x10, .cell 0xEF 0x20, .cell 0xEE 0x33, .cell 0xED 0x22, .cell 0xEC 0x12, .cell 0xEB 0x00] = true := by decide
theorem test_irq_EX11 : gives 0x20 [0x03] [.a 0x12, .sp 0xF0, .cc 0x00, .cell 0xFD 0x90, .cell 0xFE 0x80, .irqUp]
    [.sp 0xEB, .pc 0x90, .cc 0x10, .cell 0xEF 0x20, .cell 0xEE 0x00, .cell 0xED 0x00, .cell 0xEC 0x12, .cell 0xEB 0x00] = true := by decide

/-! More single steps: the board's choices, the ports, the input lines. -/

/-- EX7: the trap with `TRAP_SETS_I` false leaves I as it was. -/
theorem test_trap_EX7 :
    (trapEntry { before 0x20 [0x03] [.cc 0x09, .cell 0xFE 0x80] with
      board := { trapSetsI := false, readOnly := [] } }).cc = CC.ofByte 0x09 := by decide

/-- A write to a read-only address has no effect (20_memory.md R54, D7). -/
theorem test_write_readOnly :
    (({ before 0x20 [] [.cell 0xFF 0x20] with board := { trapSetsI := true, readOnly := [0xFF] } } :
      State).write 0xFF 0x55).cell 0xFF = 0x20 := by decide

/-- A port holds no memory: a byte written to it cannot be read back (R56). -/
theorem test_write_port :
    ((before 0x20 [] [.presents .fc 0x11]).write 0xFC 0x55).readVal 0xFC = 0x11 := by decide

/-- A read-modify-write at a port is one read and then one write (R62). -/
theorem test_inc_port : gives 0x20 [0x37, 0xFB] [.presents .fb 0x7F]
    [.pc 0x22, .cc 0x0A, .consumed .fb, .sent .fb 0x80] = true := by decide

/-- Reset at a boundary goes before a pending interrupt (60_exceptions.md R247) and keeps the registers
(70_reset_and_hazards.md R282). -/
theorem test_reset_first :
    (match step { before 0x20 [] [.a 0x12, .sp 0x34, .cc 0x0F, .cell 0xFF 0x80] with
        lines := [{ reset := .atBoundary, irq := true }] } with
      | .next t => t.pc == 0x80 && t.cc == CC.ofByte 0x1F && t.a == 0x12 && t.sp == 0x34
      | _ => false) = true := by decide

/-- Reset inside an instruction stops the model by name (R282, U6). -/
theorem test_reset_inside :
    (match step { before 0x20 [0x00] [] with
        lines := [{ reset := .insideInstruction, irq := false }] } with
      | .fault r => r == .resetInsideInstruction
      | _ => false) = true := by decide

/-- S3: the four constant functions of the ALU (49_alu_control.md R230). -/
theorem test_alu_S3 :
    [0b0000, 0b0001, 0b0010, 0b0011].map (fun f =>
      ((aluPass f (allFlags 0b00) 0x12 0x34 0x56 (CC.ofByte 0)).val,
        (aluPass f (allFlags 0b00) 0x12 0x34 0x56 (CC.ofByte 0)).cc.toByte)) =
    [(0x00, 0x04), (0xFD, 0x08), (0xFE, 0x08), (0xFF, 0x08)] := by decide

/-- FC6 and FC14: both self-branches end the run where nothing can disturb it (70_reset_and_hazards.md R292). -/
theorem test_runEnded :
    (before 0x20 [0x33, 0x20] []).runEnded = true ∧ (before 0x20 [0x21, 0xFE] []).runEnded = true ∧
    (before 0x20 [0x21, 0xFE] [.irqUp]).runEnded = false := by decide

/-! Placing an instruction where the next step fetches. -/

/-- The host's word of `LDA #$5A`: the opcode in bits 7 to 0, the operand byte in bits 15 to 8. -/
theorem test_decodeTableWord :
    decodeTableWord 16 0x5AF0 = some (.lda (.im 0x5A)) ∧ decodeTableWord 8 0xF0 = some (.lda (.im 0)) ∧
    decodeTableWord 8 0xFF = some (.illegal 0xFF) := by decide

theorem test_withFetchWord :
    (match step (State.reset.withFetchWord 16 0x5AF0) with
      | .next t => t.a == 0x5A && t.pc == 0x02
      | _ => false) = true := by decide

/-- A program is loaded, with its reset vector, and reset runs it (D1, log entry 11): P1's first bytes. -/
theorem test_loadImage_reset :
    (match step { State.reset.loadImage [(0x20, 0x92), (0x21, 0xF0), (0xFB, 0x77), (0xFF, 0x20)] with
        lines := [{ reset := .atBoundary, irq := false }] } with
      | .next t =>
        (match step t with
          | .next u => u.sp == 0xF0 && u.pc == 0x22 && u.cell 0xFB == 0
          | _ => false)
      | _ => false) = true := by decide

/-! The assembler (30_encoding.md R97 to R104). -/

/-- S5: the three spellings of ten. -/
theorem test_assembler_S5 :
    parseNumber ['1', '0'] = some 10 ∧ parseNumber ['$', '0', 'A'] = some 10 ∧
    parseNumber ['%', '0', '0', '0', '0', '1', '0', '1', '0'] = some 10 ∧
    parseNumber ['%', '2'] = none := by decide

/-- S6: the synonyms. -/
theorem test_assembler_S6 :
    findOpcode "ASLA" .ih = some 0x0B ∧ findOpcode "ASL" .ab = some 0x3B ∧
    findOpcode "BHS" .pc = some 0x29 ∧ findOpcode "BLO" .pc = some 0x28 ∧
    findOpcode "JMP" .ns = none := by decide +kernel

/-- The loop of program P6: a backward branch, and the operands as the program lists them. -/
theorem test_assembler_P6 :
    assemble [.org (.const 0x24), .op (some "L") "LDA" .xPostInc (.const 0),
      .op none "STA" .yPostInc (.const 0), .op none "CMPX" .im (.const 0x83),
      .op none "BNE" .pc (.sym "L"), .op (some "H") "BRA" .pc (.sym "H")] =
    some [(0x24, 0xF5), (0x25, 0xEB), (0x26, 0x9C), (0x27, 0x83), (0x28, 0x25), (0x29, 0xFA),
      (0x2A, 0x21), (0x2B, 0xFE)] := by decide +kernel

/-- The choices of log entry 17: what stands before any ORG starts at $00, and of two bytes at one address the
later one is loaded. -/
theorem test_assembler_placement :
    assemble [.fcb none [.const 0x11], .org (.const 0x00), .fcb none [.const 0x22]] =
      some [(0x00, 0x11), (0x00, 0x22)] ∧
    (State.reset.loadImage [(0x00, 0x11), (0x00, 0x22)]).cell 0x00 = 0x22 := by decide

/-- The choices of log entries 21 and 22: case matters in mnemonics and symbols and not in digits, and a
character beyond ASCII is stored as the low byte of its code point. -/
theorem test_assembler_case :
    findOpcode "LDA" .im = some 0xF0 ∧ findOpcode "lda" .im = none ∧
    evalValue [("L", 1)] (.sym "L") = some 1 ∧ evalValue [("L", 1)] (.sym "l") = none ∧
    parseNumber ['$', '0', 'a'] = some 10 ∧
    assemble [.fcs none ['A', 'Å', 'Ł']] = some [(0x00, 0x41), (0x01, 0xC5), (0x02, 0x41)] := by
  decide +kernel

/-- The directives: EQU stores nothing, RMB reserves, FCB and FCS store (R99 to R103). -/
theorem test_assembler_directives :
    assemble [.equ "N" (.const 3), .org (.const 0x80), .fcb none [.const 0x10, .const (-1)],
      .rmb (some "T") (.sym "N"), .fcs none ['A', 'B'], .fcb none [.sym "T"]] =
    some [(0x80, 0x10), (0x81, 0xFF), (0x85, 0x41), (0x86, 0x42), (0x87, 0x82)] := by decide +kernel

/-! A state for each obligation that has hypotheses. -/

/-- A small state: `LDA $FF,SP` at $20 with A, X, Y and the byte it reads. -/
def witness : State := before 0x20 [0xF2, 0xFF] [.a 0x81, .x 0x40, .y 0xFF, .sp 0xF0, .cell 0xEF 0x7F]

theorem witness_DecodeReversesEncode :
    (Instr.lda (.mem .yPreDec)).wf = true ∧ (Instr.illegal 0xFF).wf = true ∧
    (Instr.bra 0xFF).wf = true := by decide

theorem witness_EncodeReversesDecode :
    decode [0xFF, 0x00] = .ok (.illegal 0xFF, [0x00]) ∧
    decode [0x01, 0xFF] = .ok (.andcc 0xFF, []) := ⟨rfl, rfl⟩

theorem witness_OpcodeAloneFixesModeLengthAndCycles :
    (Instr.lda (.im 0x00)).wf = true ∧ (Instr.lda (.im 0xFF)).wf = true ∧
    (Instr.lda (.im 0x00)).opcode = (Instr.lda (.im 0xFF)).opcode ∧ 0xFF ∈ illegalOpcodes := by
  decide

/-- A one-byte instruction at $FF and a two-byte one at $FE: PC wraps. -/
theorem witness_StepRunsTheDecodedInstruction :
    (∃ s rest, s = before 0xFF [0x00] [] ∧ s.fetches = true ∧ Instr.nop.wf = true ∧
      decode [s.readVal s.pc, s.readVal (s.pc + 1)] = .ok (.nop, rest)) ∧
    ∃ s, s = before 0xFE [0x21, 0x05] [] ∧ s.fetches = true ∧ (Instr.bra 0x05).wf = true ∧
      decode [s.readVal s.pc, s.readVal (s.pc + 1)] = .ok (.bra 0x05, []) :=
  ⟨⟨_, _, rfl, by decide, by decide, rfl⟩, ⟨_, rfl, by decide, by decide, rfl⟩⟩

/-- The state with these input lines at its boundary. -/
def atLine (r : ResetLine) (irq : Bool) (s : State) : State := { s with lines := [{ reset := r, irq := irq }] }

theorem witness_StepStopsOnlyForResetInsideAnInstruction :
    (atLine .insideInstruction false witness).boundary.reset = .insideInstruction ∧
    (atLine .atBoundary true witness).boundary.reset ≠ .insideInstruction ∧
    witness.boundary.reset ≠ .insideInstruction := by decide

theorem witness_RunsNeverStop :
    (∀ b ∈ (atLine .atBoundary true witness).lines, b.reset ≠ .insideInstruction) ∧
    (atLine .atBoundary true witness).inv = true := by decide

theorem witness_StepKeepsTheInvariant : witness.inv = true ∧ ∃ t, step witness = .next t :=
  ⟨by decide, _, rfl⟩

/-- A push at a read-only address. -/
theorem witness_StepKeepsBoardAndReadOnlyCells :
    ∃ s t, s = { before 0x20 [0x10] [.sp 0x00] with board := { trapSetsI := true, readOnly := [0xFF] } } ∧
      step s = .next t ∧ 0xFF ∈ s.board.readOnly := ⟨_, _, rfl, rfl, by decide⟩

theorem witness_AccessesAreTheTablesOwn :
    (∃ t, exec (.inc (.ab 0xFB)) witness = .next t) ∧
    0xFC ∉ dataWrites (.inc (.ab 0xFB)) witness := ⟨⟨_, rfl⟩, by decide⟩

theorem witness_RegistersChangeOnlyWhereNamed :
    (∃ t, exec (.cmpa (.mem (.ns 0xFF))) witness = .next t) ∧
    (Instr.cmpa (.mem (.ns 0xFF))).wf = true ∧ writesA (.cmpa (.mem (.ns 0xFF))) = false ∧
    writesX (.lda (.mem .yPreDec)) = false ∧ writesY (.sta .xPreInc) = false ∧
    writesSP (.lda (.im 0xFF)) = false ∧ writesPC (.lda (.im 0xFF)) = false :=
  ⟨⟨_, rfl⟩, by decide⟩

theorem witness_FlagsChangeOnlyWhereNamed :
    (∃ t, exec .inca witness = .next t) ∧ writesI witness .inca = false ∧ writesC .inca = false ∧
    (∃ t, exec .rts witness = .next t) ∧ writesNZV .rts = false :=
  ⟨⟨_, rfl⟩, by decide, by decide, ⟨_, rfl⟩, by decide⟩

/-- The mask changes by reset, interrupt, trap, ORCC, ANDCC, RTI, TFR, EXG and PULCC. -/
def changesMask (s : State) : Bool :=
  match step s with
  | .next t => t.cc.i != s.cc.i
  | _ => false

theorem witness_MaskChangesOnlyByTheseEvents :
    [atLine .atBoundary true witness, atLine .idle true witness, before 0x20 [0xDF] [],
      before 0x20 [0x02, 0x10] [], before 0x20 [0x01, 0xEF] [.cc 0x10], before 0x20 [0x44] [.cc 0x10],
      before 0x20 [0x18] [.a 0x10], before 0x20 [0x9F] [.a 0x10],
      before 0x20 [0x17] [.cell 0xF0 0x10]].all changesMask = true := by decide

theorem witness_ResetMasksAndLoadsTheVector :
    (atLine .atBoundary true witness).boundary.reset = .atBoundary := by decide

theorem witness_TrapStacksTheAddressAfterTheOpcode :
    ∃ s, s = before 0xFF [0xEF] [] ∧ s.fetches = true ∧ s.readVal s.pc ∈ illegalOpcodes :=
  ⟨_, rfl, by decide, by decide⟩

theorem witness_InterruptIsTakenWhereUnmasked :
    (∃ s, s = atLine .idle true witness ∧ s.boundary.reset = .idle ∧
      (s.boundary.irq = true ∧ s.cc.i = false)) ∧
    ∃ s, s = atLine .idle true (put witness (.cc 0x10)) ∧ s.boundary.reset = .idle ∧
      ¬ (s.boundary.irq = true ∧ s.cc.i = false) :=
  ⟨⟨_, rfl, by decide, by decide⟩, ⟨_, rfl, by decide, by decide⟩⟩

/-- The frame right below the ports, and a frame that wraps into the vectors. -/
theorem witness_ReturnRestoresWhatEntrySaved :
    ∀ v ∈ [(0xFB : Byte), 0x02], ∃ s, s = atLine .idle true (put witness (.sp v)) ∧ s.frameFits ∧
      s.boundary.reset = .idle ∧ s.interruptTaken = true := by
  intro v hv
  refine ⟨_, rfl, ?_⟩
  simp only [List.mem_cons, List.not_mem_nil, or_false] at hv
  rcases hv with rfl | rfl <;> unfold State.frameFits <;> decide

theorem witness_RequestStillUpIsTakenAgainAfterReturn :
    ∃ s up rest, up = { reset := .idle, irq := true } ∧
      s = { put witness (.sp 0xFB) with
        mem := [(0x60, 0x44), (0xFD, 0x60)], lines := up :: up :: up :: rest } ∧
      s.cc.i = false ∧ s.frameFits ∧
      (∀ k ∈ [1, 2, 3, 4, 5], s.sp - k ≠ 0xFD ∧ s.sp - k ≠ s.cell 0xFD) ∧
      s.cell 0xFD ≠ 0xFB ∧ s.cell 0xFD ≠ 0xFC ∧ s.cell (s.cell 0xFD) = 0x44 := by
  refine ⟨_, _, [], rfl, rfl, ?_⟩
  unfold State.frameFits
  decide

/-- An ordinary address next to the ports, a port, and a read-only address. -/
theorem witness_ReadAfterWrite :
    witness.ordinary 0xFA ∧ witness.ordinary 0xFD ∧ ¬ witness.ordinary 0xFB ∧
    ¬ ({ witness with board := { trapSetsI := true, readOnly := [0x00] } } : State).ordinary 0x00 := by
  decide

theorem witness_ReadsChangeOnlyPortInputs :
    ((0xFA : Byte) ≠ 0xFB ∧ (0xFA : Byte) ≠ 0xFC) ∧ (0xFD : Byte) ≠ 0xFB ∧ (0xFD : Byte) ≠ 0xFC := by
  decide

theorem witness_LoadXYSP :
    (Operand.im 0x00).isBinary = true ∧ (Operand.mem (.ny 0xFF)).isBinary = true := by decide

/-- Both ends of the six modes that store a register. -/
theorem witness_StoreXYSP : (MemMode.ab 0xFF).isPlain = true ∧ MemMode.ay.isPlain = true := by decide

theorem witness_ClearAOrMemory :
    (MemMode.ns 0xFF).isPlain = true ∧ (MemMode.ab 0xFB).isPlain = true ∧ MemMode.ax.isPlain = true := by
  decide

theorem witness_BranchAlways : (before 0x00 [] []).pc = (0xFE : Byte) + 2 := by decide

/-- The stack pointer above a port's neighbours and at $00. -/
theorem witness_ReturnComesBackFromTheCall :
    ∀ v ∈ [(0xFB : Byte), 0xFE, 0x00], (put witness (.sp v)).ordinary ((put witness (.sp v)).sp - 1) := by
  decide

theorem witness_AddToA :
    ∃ o s v r r', o = Operand.mem (.ns 0xFF) ∧ s = witness ∧ o.isBinary = true ∧ v = operandValue o s ∧
      r = s.a + v ∧ r' = s.a + v + (if s.cc.c then 1 else 0) :=
  ⟨_, _, _, _, _, rfl, rfl, by decide, rfl, rfl, rfl⟩

theorem witness_SubtractFromA :
    ∃ o s v r r', o = Operand.im 0xFF ∧ s = put witness (.cc 0x01) ∧ o.isBinary = true ∧
      v = operandValue o s ∧ r = s.a - v ∧ r' = s.a - v - (if s.cc.c then 1 else 0) :=
  ⟨_, _, _, _, _, rfl, rfl, by decide, rfl, rfl, rfl⟩

theorem witness_NegateAOrMemory :
    ∃ m s old r r', m = MemMode.ay ∧ s = witness ∧ r' = -s.a ∧ m.isPlain = true ∧
      old = s.readVal (effectiveAddress m s) ∧ r = -old :=
  ⟨_, _, _, _, _, rfl, rfl, rfl, by decide, rfl, rfl⟩

theorem witness_IncrementAndDecrement :
    ∃ m s old, m = MemMode.ns 0xFF ∧ s = witness ∧ m.isPlain = true ∧
      old = s.readVal (effectiveAddress m s) :=
  ⟨_, _, _, rfl, rfl, by decide, rfl⟩

/-- Each of the four comparisons, with a mode of its own. -/
theorem witness_CompareSetsTheFlagsOfTheDifference :
    ∃ s, s = witness ∧ ∀ p ∈ [((.mem (.ny 0xFF) : Operand), Instr.cmpa (.mem (.ny 0xFF)), s.a),
        (.mem (.ns 0xFF), .cmpx (.mem (.ns 0xFF)), s.x), (.im 0x00, .cmpy (.im 0x00), s.y),
        (.mem (.ab 0xFF), .cmpsp (.mem (.ab 0xFF)), s.sp)],
      (p.2.1, p.2.2) ∈ [(Instr.cmpa p.1, s.a), (.cmpx p.1, s.x), (.cmpy p.1, s.y), (.cmpsp p.1, s.sp)] ∧
        p.2.1.wf = true ∧ ∃ v r, v = operandValue p.1 s ∧ r = p.2.2 - v := by
  refine ⟨_, rfl, fun p hp => ?_⟩
  refine ⟨?_, ?_, _, _, rfl, rfl⟩
  · revert p; decide
  · revert p; decide

theorem witness_BranchesAfterCompareAreComparisons :
    (Instr.cmpsp (.mem (.ab 0xFF)), witness.sp) ∈
      [(Instr.cmpa (.mem (.ab 0xFF)), witness.a), (.cmpx (.mem (.ab 0xFF)), witness.x),
        (.cmpy (.mem (.ab 0xFF)), witness.y), (.cmpsp (.mem (.ab 0xFF)), witness.sp)] ∧
    (Instr.cmpsp (.mem (.ab 0xFF))).wf = true := by decide

theorem witness_BitTestAndTest :
    (∃ o r, o = Operand.mem (.ns 0xFF) ∧ o.isBinary = true ∧ r = witness.a &&& operandValue o witness) ∧
    ∃ m r, m = MemMode.ax ∧ m.isPlain = true ∧ r = witness.readVal (effectiveAddress m witness) :=
  ⟨⟨_, _, rfl, by decide, rfl⟩, ⟨_, _, rfl, by decide, rfl⟩⟩

theorem witness_LogicOnA :
    ∃ o v, o = Operand.im 0x0F ∧ o.isBinary = true ∧ v = operandValue o witness ∧
      (∃ r : Byte, ∀ k, r.getLsbD k = (witness.a.getLsbD k && v.getLsbD k)) ∧
      (∃ r : Byte, ∀ k, r.getLsbD k = (witness.a.getLsbD k || v.getLsbD k)) ∧
      ∃ r : Byte, ∀ k, r.getLsbD k = (witness.a.getLsbD k ^^ v.getLsbD k) :=
  ⟨_, _, rfl, by decide, rfl, ⟨_, fun _ => BitVec.getLsbD_and⟩, ⟨_, fun _ => BitVec.getLsbD_or⟩,
    ⟨_, fun _ => BitVec.getLsbD_xor⟩⟩

theorem witness_ComplementAOrMemory :
    (0x7E : Byte).toNat = 255 - witness.a.toNat ∧
    ∃ m, m = MemMode.ns 0xFF ∧ m.isPlain = true ∧
      (0x80 : Byte).toNat = 255 - (witness.readVal (effectiveAddress m witness)).toNat :=
  ⟨by decide, _, rfl, by decide, by decide⟩

/-- A = $81 and the byte $7F at SP + $FF. -/
theorem witness_ShiftAOrMemory :
    ((0xC0 : Byte).toInt = witness.a.toInt / 2 ∧ (0x02 : Byte).toNat = 2 * witness.a.toNat % 256 ∧
      (0x40 : Byte).toNat = witness.a.toNat / 2) ∧
    ∃ m old, m = MemMode.ns 0xFF ∧ m.isPlain = true ∧
      old = witness.readVal (effectiveAddress m witness) ∧ (0x3F : Byte).toInt = old.toInt / 2 ∧
      (0xFE : Byte).toNat = 2 * old.toNat % 256 ∧ (0x3F : Byte).toNat = old.toNat / 2 :=
  ⟨by decide, _, _, rfl, by decide, rfl, by decide, by decide, by decide⟩

theorem witness_RotateAOrMemory :
    ∃ s, s = put witness (.cc 0x01) ∧
      ((0x03 : Byte).toNat = 2 * s.a.toNat % 256 + (if s.cc.c then 1 else 0) ∧
        (0xC0 : Byte).toNat = s.a.toNat / 2 + (if s.cc.c then 128 else 0)) ∧
      ∃ m old, m = MemMode.ns 0xFF ∧ m.isPlain = true ∧ old = s.readVal (effectiveAddress m s) ∧
        (0xFF : Byte).toNat = 2 * old.toNat % 256 + (if s.cc.c then 1 else 0) ∧
        (0xBF : Byte).toNat = old.toNat / 2 + (if s.cc.c then 128 else 0) :=
  ⟨_, rfl, by decide, _, _, rfl, by decide, rfl, by decide, by decide⟩

theorem witness_ByteShiftsMakeWordShifts :
    witness.ordinary 0xFA ∧ witness.ordinary 0x00 ∧ (0xFA : Byte) ≠ 0x00 := by decide

theorem witness_PushStoresBelowTheStackPointer :
    ∃ s b, s = put witness (.cc 0x1F) ∧ b = (0x1F : Byte) ∧ b.toNat < 32 ∧ b.getLsbD 4 = s.cc.i ∧
      b.getLsbD 3 = s.cc.n ∧ b.getLsbD 2 = s.cc.z ∧ b.getLsbD 1 = s.cc.v ∧ b.getLsbD 0 = s.cc.c :=
  ⟨_, _, rfl, rfl, by decide⟩

theorem witness_PullLoadsFromTheStackPointer :
    ∃ b, b = (put witness (.sp 0xFF)).readVal (put witness (.sp 0xFF)).sp := ⟨_, rfl⟩

/-- Both self-branches next to the ports, and a state in which a run has ended. -/
theorem witness_EndedRunStaysEnded :
    (∃ s, s = before 0xF9 [0x21, 0xFE] [] ∧ s.undisturbed = true ∧ s.pc ≠ 0xFA ∧ s.pc ≠ 0xFB ∧
      s.pc ≠ 0xFC ∧ (s.cell s.pc = 0x21 ∧ s.cell (s.pc + 1) = 0xFE ∨
        s.cell s.pc = 0x33 ∧ s.cell (s.pc + 1) = s.pc) ∧ s.runEnded = true) ∧
    ∃ s, s = before 0xFF [0x33, 0xFF] [] ∧ s.undisturbed = true ∧ s.pc ≠ 0xFA ∧ s.pc ≠ 0xFB ∧
      s.pc ≠ 0xFC ∧ (s.cell s.pc = 0x21 ∧ s.cell (s.pc + 1) = 0xFE ∨
        s.cell s.pc = 0x33 ∧ s.cell (s.pc + 1) = s.pc) ∧ s.runEnded = true :=
  ⟨⟨_, rfl, by decide⟩, ⟨_, rfl, by decide⟩⟩

end Sys2Proof.Tests
end

/-! What a step does in each of its cases (00_scope.md R20, 60_exceptions.md R247), what the fetch leaves behind
it (R13), and the statements on the scope of a step (O6, O7, O8). -/

namespace Sys2Proof

/-! The opcode map: an instruction has an operand byte exactly where its row takes one. -/

section opcodeMap

/-- The row's instruction has the byte that the row takes as its operand byte, and no other
(30_encoding.md R75). -/
def OpRow.OperandFits (r : OpRow) : Prop :=
  ∀ n, (r.instr n).operandBytes = if r.hasOperand then [n] else []

/-- A pattern of rows over memory modes gives a fitting row for every instruction whose operand byte is its
mode's. -/
def FitsMem (row : (MemMode → Instr) → OpRow) : Prop :=
  ∀ mk, (∀ m, (mk m).operandBytes = m.operandBytes) → (row mk).OperandFits

/-- A pattern of rows over source operands gives a fitting row for every instruction whose operand byte is its
operand's. -/
def FitsSource (row : (Operand → Instr) → OpRow) : Prop :=
  ∀ mk, (∀ o, (mk o).operandBytes = o.operandBytes) → (row mk).OperandFits

theorem rowAb_fits : FitsMem rowAb := fun _ h n => h (.ab n)
theorem rowNs_fits : FitsMem rowNs := fun _ h n => h (.ns n)
theorem rowNx_fits : FitsMem rowNx := fun _ h n => h (.nx n)
theorem rowNy_fits : FitsMem rowNy := fun _ h n => h (.ny n)
theorem rowAx_fits : FitsMem rowAx := fun _ h _ => h .ax
theorem rowAy_fits : FitsMem rowAy := fun _ h _ => h .ay
theorem rowIm_fits : FitsSource rowIm := fun _ h n => h (.im n)

theorem rowMem_fits {row : (MemMode → Instr) → OpRow} (hrow : FitsMem row) :
    FitsSource (rowMem row) :=
  fun mk h => hrow (fun m => mk (.mem m)) fun m => h (.mem m)

theorem memColumn_fits {row : (MemMode → Instr) → OpRow} {cell3 cell4 : OpRow}
    (hrow : FitsMem row) (h3 : cell3.OperandFits) (h4 : cell4.OperandFits) :
    (memColumn row cell3 cell4).Forall OpRow.OperandFits := by
  refine ⟨?_, ?_, ?_, h3, h4, ?_, ?_, ?_, ?_, ?_, ?_, ?_, ?_, ?_, ?_, ?_⟩ <;>
    exact hrow _ fun _ => rfl

theorem sourceColumn_fits {row : (Operand → Instr) → OpRow} {cellC cellD cellE cellF : OpRow}
    (hrow : FitsSource row) (hC : cellC.OperandFits) (hD : cellD.OperandFits)
    (hE : cellE.OperandFits) (hF : cellF.OperandFits) :
    (sourceColumn row cellC cellD cellE cellF).Forall OpRow.OperandFits := by
  refine ⟨?_, ?_, ?_, ?_, ?_, ?_, ?_, ?_, ?_, ?_, ?_, ?_, hC, hD, hE, hF⟩ <;>
    exact hrow _ fun _ => rfl

/-- The columns without a pattern: each row is written out with its own operand. -/
theorem writtenColumns_fit :
    column0.Forall OpRow.OperandFits ∧ column1.Forall OpRow.OperandFits ∧
    column2.Forall OpRow.OperandFits ∧ columnE.Forall OpRow.OperandFits ∧
    columnF.Forall OpRow.OperandFits := by
  simp only [column0, column1, column2, columnE, columnF, List.forall_cons, List.Forall]
  and_intros <;> exact fun _ => rfl

theorem opcodeMap_fits : opcodeMap.Forall OpRow.OperandFits := by
  obtain ⟨h0, h1, h2, hE, hF⟩ := writtenColumns_fit
  simp only [opcodeMap, List.forall_append, and_assoc]
  refine ⟨h0, h1, h2,
    memColumn_fits rowAb_fits ?_ ?_, memColumn_fits rowNs_fits ?_ ?_,
    memColumn_fits rowNx_fits ?_ ?_, memColumn_fits rowAx_fits ?_ ?_,
    memColumn_fits rowNy_fits ?_ ?_, memColumn_fits rowAy_fits ?_ ?_,
    sourceColumn_fits rowIm_fits ?_ ?_ ?_ ?_,
    sourceColumn_fits (rowMem_fits rowAb_fits) ?_ ?_ ?_ ?_,
    sourceColumn_fits (rowMem_fits rowNs_fits) ?_ ?_ ?_ ?_,
    sourceColumn_fits (rowMem_fits rowNx_fits) ?_ ?_ ?_ ?_,
    sourceColumn_fits (rowMem_fits rowNy_fits) ?_ ?_ ?_ ?_,
    hE, hF⟩ <;> exact fun _ => rfl

/-- Every opcode's row fits; past the end of the map `opcodeRow` gives a blank cell, which fits too. -/
theorem opcodeRow_fits (op : Byte) : (opcodeRow op).OperandFits := by
  unfold opcodeRow
  rw [List.getD_eq_getElem?_getD]
  rcases h : opcodeMap[op.toNat]? with _ | r
  · exact fun _ => rfl
  · exact List.forall_iff_forall_mem.1 opcodeMap_fits r (List.mem_of_getElem? h)

/-- What two bytes decode to: the row of the first one completed by the second. -/
theorem decode_pair {op n : Byte} {i : Instr} {rest : List Byte}
    (h : decode [op, n] = .ok (i, rest)) : (opcodeRow op).instr n = i := by
  unfold decode at h
  rcases hr : opcodeRow op with j | f <;> simp_all [OpRow.instr]

end opcodeMap

end Sys2Proof

namespace Sys2Proof.Machine

/-- The instruction has one byte for its opcode and one more where the row takes an operand. -/
theorem byteLength_opcodeRow (op n : Byte) :
    byteLength ((opcodeRow op).instr n) = if (opcodeRow op).hasOperand then 2 else 1 := by
  rw [byteLength, opcodeRow_fits op n]
  split <;> rfl

/-! The fetch. -/

section fetch

variable {s t u : State} {m n : Nat}

/-- From `s` to `t` the next `n` bytes at PC have been fetched, and nothing else has happened (R13). -/
structure Fetched (s t : State) (n : Nat) : Prop where
  registers : t.hasRegisters s.a s.x s.y s.sp (s.pc + BitVec.ofNat 8 n) s.cc
  mem : t.mem = s.mem
  portOut : t.portOut = s.portOut
  reads : readsAll s t ((List.range n).map fun k => s.pc + BitVec.ofNat 8 k)
  lines : keepsLines s t

theorem fetch8_fetched (s : State) : Fetched s (fetch8 s).2 1 where
  registers := by simp [State.hasRegisters, fetch8]
  mem := by simp [fetch8]
  portOut := by simp [fetch8]
  reads := by simpa using readsAll_one (a := s.pc) (t := (fetch8 s).2) rfl rfl
  lines := by simp [keepsLines, fetch8]

/-- Fetches one after the other. -/
theorem Fetched.trans (h : Fetched s t m) (k : Fetched t u n) : Fetched s u (m + n) := by
  obtain ⟨ha, hx, hy, hsp, hpc, hcc⟩ := h.registers
  obtain ⟨ka, kx, ky, ksp, kpc, kcc⟩ := k.registers
  have hadd : ∀ j, t.pc + BitVec.ofNat 8 j = s.pc + BitVec.ofNat 8 (m + j) := fun j => by
    rw [hpc, BitVec.ofNat_add, BitVec.add_assoc]
  refine ⟨⟨ka.trans ha, kx.trans hx, ky.trans hy, ksp.trans hsp, kpc.trans (hadd n), kcc.trans hcc⟩,
    k.mem.trans h.mem, k.portOut.trans h.portOut, ?_,
    k.lines.1.trans h.lines.1, k.lines.2.trans h.lines.2⟩
  have hreads := readsAll_append h.reads k.reads
  simp only [hadd] at hreads
  simpa [List.range_add, Function.comp_def] using hreads

/-- The second fetch reads another address than the first, so it sees the byte that was there. -/
theorem fetch8_fetch8_val (s : State) : (fetch8 (fetch8 s).2).1 = s.readVal (s.pc + 1) := by
  have hne : s.pc ≠ s.pc + 1 := by bv_omega
  simpa [fetch8] using s.afterRead_readVal_other hne

/-- The fetch in terms of the opcode's row: the instruction that the two bytes at PC stand for, after one fetch
or two. -/
theorem fetchInstr_eq (s : State) :
    fetchInstr s = ((opcodeRow (s.readVal s.pc)).instr (s.readVal (s.pc + 1)),
      if (opcodeRow (s.readVal s.pc)).hasOperand then (fetch8 (fetch8 s).2).2 else (fetch8 s).2) := by
  have hop : (fetch8 s).1 = s.readVal s.pc := rfl
  unfold fetchInstr
  simp only [hop, fetch8_fetch8_val]
  rcases opcodeRow (s.readVal s.pc) with i | f <;> rfl

/-- The fetch takes as many bytes as the instruction has. -/
theorem fetchInstr_fetched (s : State) :
    Fetched s (fetchInstr s).2 (byteLength (fetchInstr s).1) := by
  rw [fetchInstr_eq, byteLength_opcodeRow]
  split
  · exact (fetch8_fetched s).trans (fetch8_fetched _)
  · exact fetch8_fetched s

end fetch

/-! The cases of a step. -/

section step

variable {s : State}

theorem step_insideInstruction (h : s.boundary.reset = .insideInstruction) :
    step s = .fault .resetInsideInstruction := by
  simp [step, h]

theorem step_atBoundary (h : s.boundary.reset = .atBoundary) :
    step s = .next (resetEntry s.passBoundary) := by
  simp [step, h]

theorem step_interrupt (h : s.boundary.reset = .idle) (hi : s.interruptTaken = true) :
    step s = .next (irqEntry s.passBoundary) := by
  simp [step, h, hi]

theorem State.fetches_iff :
    s.fetches = true ↔ s.boundary.reset = .idle ∧ s.interruptTaken = false := by
  simp [State.fetches]

theorem step_fetches (h : s.fetches = true) :
    step s = exec (fetchInstr s.passBoundary).1 (fetchInstr s.passBoundary).2 := by
  obtain ⟨hr, hi⟩ := State.fetches_iff.1 h
  simp [step, hr, hi]

end step

/-! The obligations. -/

/-- Settles O7: the meaning of each of the 89 mnemonics is one `.next`, whatever the mode. -/
theorem everyInstructionCompletes : Obligations.EveryInstructionCompletes := by
  intro i s
  cases i <;> exact ⟨_, rfl⟩

/-- Settles O6: the fetch finds the decoded instruction and takes its bytes. -/
theorem stepRunsTheDecodedInstruction : Obligations.StepRunsTheDecodedInstruction := by
  intro s i rest hfetches _ hdecode
  have hinstr : (fetchInstr s.passBoundary).1 = i := by
    simpa [fetchInstr_eq] using decode_pair hdecode
  have hfetched := fetchInstr_fetched s.passBoundary
  rw [hinstr] at hfetched
  refine ⟨(fetchInstr s.passBoundary).2, ?_, hfetched.registers, hfetched.mem, hfetched.portOut,
    hfetched.reads, hfetched.lines⟩
  rw [step_fetches hfetches, hinstr]

/-- Settles O8: of the four cases of a step only the reset inside an instruction stops; the fetch ends in an
instruction, which completes (O7). -/
theorem stepStopsOnlyForResetInsideAnInstruction :
    Obligations.StepStopsOnlyForResetInsideAnInstruction := by
  refine fun s => ⟨step_insideInstruction, fun hne => ?_⟩
  cases hreset : s.boundary.reset with
  | insideInstruction => exact absurd hreset hne
  | atBoundary => exact ⟨_, step_atBoundary hreset⟩
  | idle =>
    cases hirq : s.interruptTaken with
    | true => exact ⟨_, step_interrupt hreset hirq⟩
    | false =>
      rw [step_fetches (State.fetches_iff.2 ⟨hreset, hirq⟩)]
      exact everyInstructionCompletes _ _

end Sys2Proof.Machine

/-! The registers and flags that each instruction may change (10_state.md R26 to R34), CC as a byte (R31, R32) and
the state after reset (R41): O14, O15, O10 and O24. -/

namespace Sys2Proof.Machine

/-! The registers: one rule for each state operation, and then a composition of rules for each instruction. -/

section registers

/-- From `s` to `t` no register has changed but those that R26 to R30 name for the instruction. -/
structure RegisterFrame (i : Instr) (s t : State) : Prop where
  a : writesA i = false → t.a = s.a
  x : writesX i = false → t.x = s.x
  y : writesY i = false → t.y = s.y
  sp : writesSP i = false → t.sp = s.sp
  pc : writesPC i = false → t.pc = s.pc

/-- The operand's mode moves an index register only where the instruction is named for it. -/
structure IndexNamed (i : Instr) (o : Operand) : Prop where
  x : writesX i = false → ∀ s, operandX o s = s.x
  y : writesY i = false → ∀ s, operandY o s = s.y

variable {i : Instr} {s t : State} {a v : Byte} {c : CC} {m : MemMode} {o : Operand}

theorem RegisterFrame.refl : RegisterFrame i s s :=
  ⟨fun _ => rfl, fun _ => rfl, fun _ => rfl, fun _ => rfl, fun _ => rfl⟩

theorem RegisterFrame.setA (h : RegisterFrame i s t) (hw : writesA i = true) :
    RegisterFrame i s (t.setA v) :=
  { h with a := by simp [hw] }

theorem RegisterFrame.setX (h : RegisterFrame i s t) (hw : writesX i = true) :
    RegisterFrame i s (t.setX v) :=
  { h with x := by simp [hw] }

theorem RegisterFrame.setY (h : RegisterFrame i s t) (hw : writesY i = true) :
    RegisterFrame i s (t.setY v) :=
  { h with y := by simp [hw] }

theorem RegisterFrame.setSP (h : RegisterFrame i s t) (hw : writesSP i = true) :
    RegisterFrame i s (t.setSP v) :=
  { h with sp := by simp [hw] }

theorem RegisterFrame.setPC (h : RegisterFrame i s t) (hw : writesPC i = true) :
    RegisterFrame i s (t.setPC v) :=
  { h with pc := by simp [hw] }

theorem RegisterFrame.setCC (h : RegisterFrame i s t) : RegisterFrame i s (t.setCC c) :=
  { h with }

theorem RegisterFrame.afterRead (h : RegisterFrame i s t) : RegisterFrame i s (t.afterRead a) :=
  ⟨by simpa using h.a, by simpa using h.x, by simpa using h.y, by simpa using h.sp,
    by simpa using h.pc⟩

theorem RegisterFrame.write (h : RegisterFrame i s t) : RegisterFrame i s (t.write a v) :=
  ⟨by simpa using h.a, by simpa using h.x, by simpa using h.y, by simpa using h.sp,
    by simpa using h.pc⟩

theorem RegisterFrame.push8 (h : RegisterFrame i s t) (hw : writesSP i = true) :
    RegisterFrame i s (push8 t v) :=
  (h.setSP hw).write

theorem RegisterFrame.pull8 (h : RegisterFrame i s t) (hw : writesSP i = true) :
    RegisterFrame i s (pull8 t).2 :=
  h.afterRead.setSP hw

theorem RegisterFrame.trapEntry (h : RegisterFrame i s t) (hsp : writesSP i = true)
    (hpc : writesPC i = true) : RegisterFrame i s (trapEntry t) :=
  have hframe : RegisterFrame i s (pushFrame t) :=
    ((((h.push8 hsp).push8 hsp).push8 hsp).push8 hsp).push8 hsp
  hframe.setCC.afterRead.setPC hpc

theorem RegisterFrame.branchIf {taken : Bool} {n : Byte} (h : RegisterFrame i s t)
    (hw : writesPC i = true) : RegisterFrame i s (branchIf taken n t) := by
  rw [branchIf_eq]
  exact h.setPC hw

theorem RegisterFrame.readOperand (ho : IndexNamed i o) :
    RegisterFrame i s (readOperand o s).2 where
  a _ := readOperand_a o s
  x hx := (readOperand_x o s).trans (ho.x hx s)
  y hy := (readOperand_y o s).trans (ho.y hy s)
  sp _ := readOperand_sp o s
  pc _ := readOperand_pc o s

theorem RegisterFrame.writeMem (ho : IndexNamed i (.mem m)) : RegisterFrame i s (writeMem m v s) where
  a _ := writeMem_a m s v
  x hx := (writeMem_x m s v).trans (ho.x hx s)
  y hy := (writeMem_y m s v).trans (ho.y hy s)
  sp _ := writeMem_sp m s v
  pc _ := writeMem_pc m s v

theorem RegisterFrame.modifyMem {f : Byte → CC → Computed} (ho : IndexNamed i (.mem m)) :
    RegisterFrame i s (modifyMem f m s) where
  a _ := modifyMem_a f m s
  x hx := (modifyMem_x f m s).trans (ho.x hx s)
  y hy := (modifyMem_y f m s).trans (ho.y hy s)
  sp _ := modifyMem_sp f m s
  pc _ := modifyMem_pc f m s

/-! The modes.  Only LDA and STA have the auto modes, and R27 names them there for the register that moves. -/

theorem indexNamed_of_isBinary (h : o.isBinary = true) : IndexNamed i o :=
  ⟨fun _ s => (operandXY_of_isBinary h s).1, fun _ s => (operandXY_of_isBinary h s).2⟩

theorem indexNamed_of_isPlain (h : m.isPlain = true) : IndexNamed i (.mem m) :=
  ⟨fun _ s => (indexXY_of_isPlain h s).1, fun _ s => (indexXY_of_isPlain h s).2⟩

theorem Operand.isBinary_of_isCmpXY (h : o.isCmpXY = true) : o.isBinary = true := by
  unfold Operand.isCmpXY at h
  split at h <;> trivial

theorem Operand.isBinary_of_isCmpSP (h : o.isCmpSP = true) : o.isBinary = true := by
  unfold Operand.isCmpSP at h
  split at h <;> trivial

theorem indexNamed_sta (m : MemMode) : IndexNamed (.sta m) (.mem m) where
  x _ _ := by cases m <;> trivial
  y _ _ := by cases m <;> trivial

theorem indexNamed_lda : ∀ o, IndexNamed (.lda o) o
  | .im _ => ⟨fun _ _ => rfl, fun _ _ => rfl⟩
  | .mem m => ⟨(indexNamed_sta m).x, (indexNamed_sta m).y⟩

/-- A well-formed instruction changes no register but those it is named for.  The cases stand in the order of the
shapes: flags alone, A, one register to another, the stack, the flow of control, memory. -/
theorem exec_registerFrame (hwf : i.wf = true) (h : exec i s = .next t) : RegisterFrame i s t := by
  cases i <;> obtain rfl := Host.Outcome.next.inj h
  case nop => exact .refl
  case andcc | orcc | tfrACC | tsta => exact RegisterFrame.refl.setCC
  case clra | nega | inca | deca | coma | lsla | lsra | rola | rora | asra | exgACC =>
    exact (RegisterFrame.refl.setA rfl).setCC
  case tfrCCA => exact RegisterFrame.refl.setA rfl
  case tfrYX | tfrSPX | leax => exact RegisterFrame.refl.setX rfl
  case tfrXY | tfrSPY | leay => exact RegisterFrame.refl.setY rfl
  case tfrXSP | tfrYSP | leasp => exact RegisterFrame.refl.setSP rfl
  case exgXY => exact (RegisterFrame.refl.setX rfl).setY rfl
  case exgXSP => exact (RegisterFrame.refl.setX rfl).setSP rfl
  case exgYSP => exact (RegisterFrame.refl.setY rfl).setSP rfl
  case psha | pshx | pshy | pshcc => exact RegisterFrame.refl.push8 rfl
  case pula => exact (RegisterFrame.refl.pull8 rfl).setA rfl
  case pulx => exact (RegisterFrame.refl.pull8 rfl).setX rfl
  case puly => exact (RegisterFrame.refl.pull8 rfl).setY rfl
  case pulcc => exact (RegisterFrame.refl.pull8 rfl).setCC
  case bra | bmi | bpl | beq | bne | bvs | bvc | bcs | bcc | bhi | bls | bgt | bge | ble | blt =>
    exact RegisterFrame.refl.branchIf rfl
  case jmp => exact RegisterFrame.refl.setPC rfl
  case jsr | bsr => exact (RegisterFrame.refl.push8 rfl).setPC rfl
  case rts => exact (RegisterFrame.refl.pull8 rfl).setPC rfl
  case rti => exact ⟨nofun, nofun, nofun, nofun, nofun⟩
  case illegal => exact RegisterFrame.refl.trapEntry rfl rfl
  case lda o => exact ((RegisterFrame.readOperand (indexNamed_lda o)).setA rfl).setCC
  case ldx => exact ((RegisterFrame.readOperand (indexNamed_of_isBinary hwf)).setX rfl).setCC
  case ldy => exact ((RegisterFrame.readOperand (indexNamed_of_isBinary hwf)).setY rfl).setCC
  case ldsp => exact ((RegisterFrame.readOperand (indexNamed_of_isBinary hwf)).setSP rfl).setCC
  case adda | adca | suba | sbca | anda | ora | eora =>
    exact ((RegisterFrame.readOperand (indexNamed_of_isBinary hwf)).setA rfl).setCC
  case cmpa | bita => exact (RegisterFrame.readOperand (indexNamed_of_isBinary hwf)).setCC
  case cmpx | cmpy =>
    have hbinary := Operand.isBinary_of_isCmpXY hwf
    exact (RegisterFrame.readOperand (indexNamed_of_isBinary hbinary)).setCC
  case cmpsp =>
    have hbinary := Operand.isBinary_of_isCmpSP hwf
    exact (RegisterFrame.readOperand (indexNamed_of_isBinary hbinary)).setCC
  case tst m => exact (RegisterFrame.readOperand (o := .mem m) (indexNamed_of_isPlain hwf)).setCC
  case sta m => exact .writeMem (indexNamed_sta m)
  case stx | sty | stsp => exact .writeMem (indexNamed_of_isPlain hwf)
  case clr => exact (RegisterFrame.writeMem (indexNamed_of_isPlain hwf)).setCC
  case neg | inc | dec | com | lsl | lsr | rol | ror | asr =>
    exact .modifyMem (indexNamed_of_isPlain hwf)

end registers

/-! The flags.  The columns of R34's table are nested: what loads all five flags writes C, and what writes C writes
N, Z and V. -/

section flags

/-- `cc` differs from the flags of `s` only where R34 names the instruction. -/
structure FlagFrame (i : Instr) (s : State) (cc : CC) : Prop where
  mask : writesI s i = false → cc.i = s.cc.i
  result : writesNZV i = false → cc.n = s.cc.n ∧ cc.z = s.cc.z ∧ cc.v = s.cc.v
  carry : writesC i = false → cc.c = s.cc.c

variable {i : Instr} {s t : State} {cc : CC}

theorem writesC_of_loadsFlags (h : loadsFlags i = true) : writesC i = true := by
  unfold writesC
  split <;> simp only [h]

theorem writesNZV_of_writesC (h : writesC i = true) : writesNZV i = true := by
  unfold writesNZV
  split <;> simp only [h]

theorem writesI_of_loadsFlags (s : State) (h : loadsFlags i = true) : writesI s i = true := by
  unfold writesI
  split
  · contradiction
  · exact h

theorem FlagFrame.of_unchanged (h : cc = s.cc) : FlagFrame i s cc := by
  subst h
  exact ⟨fun _ => rfl, fun _ => ⟨rfl, rfl, rfl⟩, fun _ => rfl⟩

/-- INC, DEC, the logic instructions and the loads. -/
theorem FlagFrame.of_writesNZV (hw : writesNZV i = true) (hi : cc.i = s.cc.i) (hc : cc.c = s.cc.c) :
    FlagFrame i s cc :=
  ⟨fun _ => hi, by simp [hw], fun _ => hc⟩

/-- The sums and differences, the comparisons, CLR, TST and the shifts. -/
theorem FlagFrame.of_writesC (hw : writesC i = true) (hi : cc.i = s.cc.i) : FlagFrame i s cc :=
  ⟨fun _ => hi, by simp [writesNZV_of_writesC hw], by simp [hw]⟩

theorem FlagFrame.of_loadsFlags (hw : loadsFlags i = true) : FlagFrame i s cc :=
  have hC := writesC_of_loadsFlags hw
  ⟨by simp [writesI_of_loadsFlags s hw], by simp [writesNZV_of_writesC hC], by simp [hC]⟩

/-! The flags that the shapes leave. -/

theorem loadInto_cc (setR : State → Byte → State) (o : Operand) (s : State) :
    (loadInto setR o s).cc = s.cc.ofLogic (operandValue o s) := by
  simp [loadInto_eq]

theorem computeIntoA_cc (f : Byte → Byte → CC → Computed) (o : Operand) (s : State) :
    (computeIntoA f o s).cc = (f s.a (operandValue o s) s.cc).cc := by
  simp [computeIntoA_eq]

theorem compareWith_cc (f : Byte → Byte → CC → Computed) (reg : State → Byte) (o : Operand)
    (s : State) : (compareWith f reg o s).cc =
      (f (reg (readOperand o s).2) (operandValue o s) s.cc).cc := by
  simp [compareWith_eq]

theorem trapEntry_cc (s : State) :
    (trapEntry s).cc = { s.cc with i := s.board.trapSetsI || s.cc.i } := by
  simp [trapEntry_eq]

theorem branchIf_cc (taken : Bool) (n : Byte) (s : State) : (branchIf taken n s).cc = s.cc := by
  simp [branchIf_eq]

/-- The trap sets I if `TRAP_SETS_I` holds, and keeps the other flags. -/
theorem flagFrame_trapEntry (opcode : Byte) (s : State) :
    FlagFrame (.illegal opcode) s (trapEntry s).cc := by
  rw [trapEntry_cc]
  refine ⟨fun hboard => ?_, fun _ => ⟨rfl, rfl, rfl⟩, fun _ => rfl⟩
  have hboard : s.board.trapSetsI = false := hboard
  simp [hboard]

/-- An instruction changes no flag but those that R34 names it for.  The cases stand in the order of the
table: no flag, all five, N Z V, N Z V and C, and the trap. -/
theorem exec_flagFrame (h : exec i s = .next t) : FlagFrame i s t.cc := by
  cases i <;> obtain rfl := Host.Outcome.next.inj h
  case nop | tfrCCA | tfrXY | tfrYX | tfrXSP | tfrSPX | tfrYSP | tfrSPY | exgXY | exgXSP | exgYSP
      | leax | leay | leasp | jmp => exact .of_unchanged rfl
  case psha | pshx | pshy | pshcc | jsr | bsr => exact .of_unchanged (push8_cc _ _)
  case pula | pulx | puly | rts => exact .of_unchanged (pull8_cc _)
  case bra | bmi | bpl | beq | bne | bvs | bvc | bcs | bcc | bhi | bls | bgt | bge | ble | blt =>
    exact .of_unchanged (branchIf_cc _ _ _)
  case sta | stx | sty | stsp => exact .of_unchanged (writeMem_cc _ _ _)
  case andcc | orcc | pulcc | tfrACC | exgACC | rti => exact .of_loadsFlags rfl
  case lda | ldx | ldy | ldsp =>
    rw [loadInto_cc]
    exact .of_writesNZV rfl rfl rfl
  case inca | deca | coma => exact .of_writesNZV rfl rfl rfl
  case inc | dec | com =>
    rw [modifyMem_cc]
    exact .of_writesNZV rfl rfl rfl
  case anda | ora | eora =>
    rw [computeIntoA_cc]
    exact .of_writesNZV rfl rfl rfl
  case bita =>
    rw [compareWith_cc]
    exact .of_writesNZV rfl rfl rfl
  case adda | adca | suba | sbca =>
    rw [computeIntoA_cc]
    exact .of_writesC rfl rfl
  case cmpa | cmpx | cmpy | cmpsp =>
    rw [compareWith_cc]
    exact .of_writesC rfl rfl
  case clra | nega | tsta | lsla | lsra | rola | rora | asra | clr | tst => exact .of_writesC rfl rfl
  case neg | lsl | lsr | rol | ror | asr =>
    rw [modifyMem_cc]
    exact .of_writesC rfl rfl
  case illegal opcode => exact flagFrame_trapEntry opcode s

end flags

/-! CC as a byte. -/

section flagByte

/-- Bits 7 to 0 of the byte are 0 0 0 I N Z V C (R32), here from bit 0 up. -/
theorem CC.toByte_getLsbD (cc : CC) (k : Fin 8) :
    cc.toByte.getLsbD k = [cc.c, cc.v, cc.z, cc.n, cc.i, false, false, false].get k := by
  obtain ⟨i, n, z, v, c⟩ := cc
  revert i n z v c k
  decide

theorem CC.toByte_lt (cc : CC) : cc.toByte.toNat < 32 := by
  obtain ⟨i, n, z, v, c⟩ := cc
  revert i n z v c
  decide

theorem CC.ofByte_toByte (cc : CC) : CC.ofByte cc.toByte = cc :=
  (CC.mk.injEq ..).mpr ⟨cc.toByte_getLsbD 4, cc.toByte_getLsbD 3, cc.toByte_getLsbD 2,
    cc.toByte_getLsbD 1, cc.toByte_getLsbD 0⟩

/-- A byte written to CC and read back has lost bits 7 to 5 (R32). -/
theorem CC.toByte_ofByte (b : Byte) : (CC.ofByte b).toByte = b &&& 0x1F := by
  apply BitVec.eq_of_getLsbD_eq
  intro k hk
  rw [(CC.ofByte b).toByte_getLsbD ⟨k, hk⟩, BitVec.getLsbD_and]
  interval_cases k <;> simp [CC.ofByte]

end flagByte

/-! The state after reset. -/

theorem State.inv_of_mem_nil {s : State} (h : s.mem = []) : s.inv = true := by
  simp [State.inv, State.portsUnlisted, Memory.wf, h]

theorem State.cell_of_mem_nil {s : State} (h : s.mem = []) (a : Byte) :
    s.cell a = Config.unlistedByte := by
  simp [State.cell, Memory.lookup, h]

/-! The obligations. -/

/-- Settles O14: each well-formed instruction is a composition of state operations, and each register it moves
is one that the rules name for it. -/
theorem registersChangeOnlyWhereNamed : Obligations.RegistersChangeOnlyWhereNamed := by
  intro i s t hwf h
  obtain ⟨ha, hx, hy, hsp, hpc⟩ := exec_registerFrame hwf h
  exact ⟨ha, hx, hy, hsp, hpc⟩

/-- Settles O15, by the row of R34's table that each instruction stands in. -/
theorem flagsChangeOnlyWhereNamed : Obligations.FlagsChangeOnlyWhereNamed := by
  intro i s t h
  obtain ⟨hi, hnzv, hc⟩ := exec_flagFrame h
  exact ⟨hi, hnzv, hc⟩

/-- Settles O10: memory lists nothing after reset, so PC is the byte that the reset vector then reads as. -/
theorem resetStateMeetsTheInvariant : Obligations.ResetStateMeetsTheInvariant :=
  ⟨State.inv_of_mem_nil rfl, rfl, (State.cell_of_mem_nil rfl 0xFF).symm⟩

/-- Settles O24, bit by bit. -/
theorem flagByteIsZeroZeroZeroINZVC : Obligations.FlagByteIsZeroZeroZeroINZVC :=
  ⟨fun cc => ⟨cc.toByte_getLsbD 4, cc.toByte_getLsbD 3, cc.toByte_getLsbD 2, cc.toByte_getLsbD 1,
    cc.toByte_getLsbD 0, cc.toByte_lt, cc.ofByte_toByte⟩, CC.toByte_ofByte⟩

end Sys2Proof.Machine

/-! What the accesses of an instruction and of a step change outside the registers (20_memory.md R50 to R62): O26,
O25, O13, O12, O11 and O9. -/

namespace Sys2Proof.Machine

/-! One read and one write. -/

section oneAccess

variable (s : State) (a v b : Byte)

/-- A write reaches memory at the ordinary addresses only (R54, R56). -/
theorem State.stores_iff : s.stores a ↔ s.ordinary a := by
  simp [State.stores, State.ordinary, State.writable, portAt_eq_none, and_assoc]

theorem State.write_cell_ordinary :
    (s.write a v).cell b = if b = a ∧ s.ordinary a then v else s.cell b :=
  (s.write_cell a b v).trans (if_congr (and_congr eq_comm (s.stores_iff a)) rfl rfl)

theorem State.write_readVal_ordinary :
    (s.write a v).readVal b = if b = a ∧ s.ordinary a then v else s.readVal b :=
  (s.write_readVal a b v).trans (if_congr (and_congr eq_comm (s.stores_iff a)) rfl rfl)

/-- What a port presents is the next byte listed, and the free value of this read where none is (R57). -/
theorem State.portNext_eq_headD (p : Port) :
    s.portNext p = (s.port p).pending.headD (Config.portIn p (s.port p).reads) := by
  unfold State.portNext
  cases (s.port p).pending <;> rfl

/-- The invariant, cell by cell: canonical form, and no port listed. -/
theorem State.inv_iff :
    s.inv = true ↔ s.mem.wf = true ∧ ∀ cell ∈ s.mem, cell.1 ≠ 0xFB ∧ cell.1 ≠ 0xFC := by
  simp [State.inv, State.portsUnlisted]

/-- A write keeps the invariant: it lists at most the cell of an address that is no port. -/
theorem State.write_inv (h : s.inv = true) : (s.write a v).inv = true := by
  obtain ⟨hwf, hports⟩ := s.inv_iff.1 h
  refine (State.inv_iff _).2 ⟨s.write_wf a v hwf, fun cell hcell => ?_⟩
  rcases s.mem_write a v hcell with hold | ⟨haddr, hport⟩
  · exact hports cell hold
  · obtain ⟨hfb, hfc⟩ := portAt_eq_none.1 hport
    rw [haddr]
    exact ⟨fun h => hfb (BitVec.eq_of_toNat_eq h), fun h => hfc (BitVec.eq_of_toNat_eq h)⟩

end oneAccess

/-! A sequence of accesses: one rule for each state operation. -/

section accesses

/-- From `s` to `t` the addresses `reads` have been read and the addresses `writes` written, each in order, and
nothing outside the registers has changed but by these accesses. -/
structure Accesses (s t : State) (reads writes : List Byte) : Prop where
  inv : s.inv = true → t.inv = true
  cell : ∀ b, ¬ (b ∈ writes ∧ s.ordinary b) → t.cell b = s.cell b
  portOut : ∃ out, t.portOut = s.portOut ++ out ∧ out.map Prod.fst = writes.filterMap portAt
  reads : readsAll s t reads
  lines : keepsLines s t

variable {i : Instr} {s t u : State} {reads writes reads' writes' : List Byte} {a v : Byte}

/-- Reads alone, which leave memory and the output as they were. -/
theorem Accesses.of_reads (hmem : t.mem = s.mem) (hout : t.portOut = s.portOut)
    (hreads : readsAll s t reads) (hlines : keepsLines s t) : Accesses s t reads [] where
  inv := by simp [State.inv, State.portsUnlisted, hmem]
  cell := by simp [State.cell, hmem]
  portOut := ⟨[], by simp [hout], rfl⟩
  reads := hreads
  lines := hlines

theorem Accesses.refl : Accesses s s [] [] :=
  .of_reads rfl rfl (readsAll_nil rfl rfl) ⟨rfl, rfl⟩

/-- Accesses one after the other.  The board stays, and with it the addresses that accept a write. -/
theorem Accesses.trans (h : Accesses s t reads writes) (k : Accesses t u reads' writes') :
    Accesses s u (reads ++ reads') (writes ++ writes') where
  inv := k.inv ∘ h.inv
  cell b hb := by
    have hordinary : t.ordinary b ↔ s.ordinary b := by rw [State.ordinary, h.lines.2]
    have ht : t.cell b = s.cell b := h.cell b fun hw => hb ⟨List.mem_append_left _ hw.1, hw.2⟩
    have hu : u.cell b = t.cell b :=
      k.cell b fun hw => hb ⟨List.mem_append_right _ hw.1, hordinary.1 hw.2⟩
    exact hu.trans ht
  portOut := by
    obtain ⟨out, hout, hports⟩ := h.portOut
    obtain ⟨out', hout', hports'⟩ := k.portOut
    exact ⟨out ++ out', by simp [hout', hout], by simp [hports, hports']⟩
  reads := readsAll_append h.reads k.reads
  lines := ⟨k.lines.1.trans h.lines.1, k.lines.2.trans h.lines.2⟩

/-! The registers are no part of it. -/

theorem Accesses.setA (h : Accesses s t reads writes) : Accesses s (t.setA v) reads writes :=
  { h with }

theorem Accesses.setX (h : Accesses s t reads writes) : Accesses s (t.setX v) reads writes :=
  { h with }

theorem Accesses.setY (h : Accesses s t reads writes) : Accesses s (t.setY v) reads writes :=
  { h with }

theorem Accesses.setSP (h : Accesses s t reads writes) : Accesses s (t.setSP v) reads writes :=
  { h with }

theorem Accesses.setPC (h : Accesses s t reads writes) : Accesses s (t.setPC v) reads writes :=
  { h with }

theorem Accesses.setCC {c : CC} (h : Accesses s t reads writes) :
    Accesses s (t.setCC c) reads writes :=
  { h with }

theorem Accesses.preUpdate (m : MemMode) (h : Accesses s t reads writes) :
    Accesses s (preUpdate m t) reads writes := by
  cases m with
  | xPreInc | xPreDec => exact h.setX
  | yPreInc | yPreDec => exact h.setY
  | _ => exact h

theorem Accesses.postUpdate (m : MemMode) (h : Accesses s t reads writes) :
    Accesses s (postUpdate m t) reads writes := by
  cases m with
  | xPostInc | xPostDec => exact h.setX
  | yPostInc | yPostDec => exact h.setY
  | _ => exact h

theorem Accesses.branchIf {taken : Bool} {n : Byte} (h : Accesses s t reads writes) :
    Accesses s (branchIf taken n t) reads writes := by
  rw [branchIf_eq]
  exact h.setPC

/-! Memory, the stack and the vectors. -/

theorem afterRead_accesses (s : State) (a : Byte) : Accesses s (s.afterRead a) [a] [] :=
  .of_reads (by simp) (by simp) (readsAll_one rfl rfl) ⟨by simp, by simp⟩

theorem write_accesses (s : State) (a v : Byte) : Accesses s (s.write a v) [] [a] where
  inv := s.write_inv a v
  cell b hb := by
    rw [State.write_cell_ordinary, if_neg]
    rintro ⟨rfl, hordinary⟩
    exact hb ⟨List.mem_singleton_self b, hordinary⟩
  portOut := by
    refine ⟨outputOf a v, s.write_portOut a v, ?_⟩
    cases hport : portAt a <;> simp [outputOf, hport]
  reads := readsAll_nil (by simp) (by simp)
  lines := ⟨by simp, by simp⟩

theorem Accesses.afterRead (h : Accesses s t reads writes) :
    Accesses s (t.afterRead a) (reads ++ [a]) writes := by
  simpa using h.trans (afterRead_accesses t a)

theorem Accesses.write (h : Accesses s t reads writes) :
    Accesses s (t.write a v) reads (writes ++ [a]) := by
  simpa using h.trans (write_accesses t a v)

theorem push8_accesses (s : State) (v : Byte) : Accesses s (push8 s v) [] [s.sp - 1] :=
  Accesses.refl.setSP.write

theorem pull8_accesses (s : State) : Accesses s (pull8 s).2 [s.sp] [] :=
  Accesses.refl.afterRead.setSP

/-- The frame goes to the five addresses below SP, from the highest down (60_exceptions.md R243). -/
theorem pushFrame_accesses (s : State) :
    Accesses s (pushFrame s) [] [s.sp - 1, s.sp - 2, s.sp - 3, s.sp - 4, s.sp - 5] := by
  have h := ((((push8_accesses s s.pc).trans (push8_accesses _ s.y)).trans
    (push8_accesses _ s.x)).trans (push8_accesses _ s.a)).trans (push8_accesses _ s.cc.toByte)
  simpa [pushFrame, sub_sub] using h

theorem takeException_accesses (s : State) (vector : Byte) (setI : Bool) :
    Accesses s (takeException s vector setI) [vector]
      [s.sp - 1, s.sp - 2, s.sp - 3, s.sp - 4, s.sp - 5] :=
  (pushFrame_accesses s).setCC.afterRead.setPC

theorem resetEntry_accesses (s : State) : Accesses s (resetEntry s) [Config.resetVector] [] :=
  Accesses.refl.setCC.afterRead.setPC

theorem returnFromException_accesses (s : State) : Accesses s (returnFromException s)
    [s.sp, s.sp + 1, s.sp + 2, s.sp + 3, s.sp + 4] [] := by
  obtain ⟨hmem, hout, hlines⟩ := returnFromException_frame s
  exact .of_reads hmem hout (returnFromException_readsAll s) hlines

/-! The shapes of the instructions. -/

/-- Every instruction with a source operand makes the data reads of LDA with that operand. -/
theorem readOperand_accesses (o : Operand) (s : State) :
    Accesses s (readOperand o s).2 (dataReads (.lda o) s) [] :=
  match o with
  | .im _ => .refl
  | .mem m => ((Accesses.refl.preUpdate m).afterRead).postUpdate m

theorem writeMem_accesses (m : MemMode) (v : Byte) (s : State) :
    Accesses s (writeMem m v s) [] [effectiveAddress m s] :=
  (Accesses.refl.preUpdate m).write.postUpdate m

theorem modifyMem_accesses (f : Byte → CC → Computed) (m : MemMode) (s : State) :
    Accesses s (modifyMem f m s) [effectiveAddress m s] [effectiveAddress m s] :=
  ((Accesses.refl.preUpdate m).afterRead.write.postUpdate m).setCC

/-- Every instruction accesses the addresses of R60's table.  The cases stand in the order of the shapes: registers
alone, the stack, the exceptions, an operand read, one written, one modified. -/
theorem exec_accesses (h : exec i s = .next t) :
    Accesses s t (dataReads i s) (dataWrites i s) := by
  cases i <;> obtain rfl := Host.Outcome.next.inj h
  case nop => exact .refl
  case andcc | orcc | tfrACC | tsta => exact Accesses.refl.setCC
  case clra | nega | inca | deca | coma | lsla | lsra | rola | rora | asra | exgACC =>
    exact Accesses.refl.setA.setCC
  case tfrCCA => exact Accesses.refl.setA
  case tfrYX | tfrSPX | leax => exact Accesses.refl.setX
  case tfrXY | tfrSPY | leay => exact Accesses.refl.setY
  case tfrXSP | tfrYSP | leasp => exact Accesses.refl.setSP
  case exgXY => exact Accesses.refl.setX.setY
  case exgXSP => exact Accesses.refl.setX.setSP
  case exgYSP => exact Accesses.refl.setY.setSP
  case bra | bmi | bpl | beq | bne | bvs | bvc | bcs | bcc | bhi | bls | bgt | bge | ble | blt =>
    exact Accesses.refl.branchIf
  case jmp => exact Accesses.refl.setPC
  case psha | pshx | pshy | pshcc => exact push8_accesses s _
  case jsr | bsr => exact (push8_accesses s _).setPC
  case pula => exact (pull8_accesses s).setA
  case pulx => exact (pull8_accesses s).setX
  case puly => exact (pull8_accesses s).setY
  case pulcc => exact (pull8_accesses s).setCC
  case rts => exact (pull8_accesses s).setPC
  case rti => exact returnFromException_accesses s
  case illegal => exact takeException_accesses s _ _
  case lda o | adda o | adca o | suba o | sbca o | anda o | ora o | eora o =>
    exact (readOperand_accesses o s).setA.setCC
  case ldx o => exact (readOperand_accesses o s).setX.setCC
  case ldy o => exact (readOperand_accesses o s).setY.setCC
  case ldsp o => exact (readOperand_accesses o s).setSP.setCC
  case cmpa o | cmpx o | cmpy o | cmpsp o | bita o => exact (readOperand_accesses o s).setCC
  case tst m => exact (readOperand_accesses (.mem m) s).setCC
  case sta m | stx m | sty m | stsp m => exact writeMem_accesses m _ s
  case clr m => exact (writeMem_accesses m _ s).setCC
  case neg m | inc m | dec m | com m | lsl m | lsr m | rol m | ror m | asr m =>
    exact modifyMem_accesses _ m s

/-! The step. -/

theorem Fetched.accesses {n : Nat} (h : Fetched s t n) :
    Accesses s t ((List.range n).map fun k => s.pc + BitVec.ofNat 8 k) [] :=
  .of_reads h.mem h.portOut h.reads h.lines

/-- A step passes its boundary and then only makes accesses: those of a reset, of an interrupt entry, or of the fetch
and the instruction fetched. -/
theorem step_accesses (h : step s = .next t) :
    ∃ reads writes, Accesses s.passBoundary t reads writes := by
  cases hreset : s.boundary.reset with
  | insideInstruction =>
    rw [step_insideInstruction hreset] at h
    exact nomatch h
  | atBoundary =>
    rw [step_atBoundary hreset] at h
    obtain rfl := Host.Outcome.next.inj h
    exact ⟨_, _, resetEntry_accesses _⟩
  | idle =>
    cases hirq : s.interruptTaken with
    | true =>
      rw [step_interrupt hreset hirq] at h
      obtain rfl := Host.Outcome.next.inj h
      exact ⟨_, _, takeException_accesses _ _ _⟩
    | false =>
      rw [step_fetches (State.fetches_iff.2 ⟨hreset, hirq⟩)] at h
      exact ⟨_, _, (fetchInstr_fetched _).accesses.trans (exec_accesses h)⟩

end accesses

/-! Runs. -/

section run

/-- The lines past the end of the list are idle, so a reset cuts into the step only where one is listed. -/
theorem State.boundary_reset_ne {s : State} (h : ∀ b ∈ s.lines, b.reset ≠ .insideInstruction) :
    s.boundary.reset ≠ .insideInstruction := by
  unfold State.boundary
  cases hlines : s.lines with
  | nil => exact nofun
  | cons b rest => exact h b (by simp [hlines])

/-- A run of one step more, on whatever machine stands behind the host's interface. -/
theorem run_succ_of_step {M : Host.Core} {s t : M.State} (k : Nat) (h : M.step s = .next t) :
    M.run (k + 1) s = M.run k t := by
  rw [Host.Core.run, h]

end run

/-! The obligations. -/

/-- Settles O26: only `afterRead` at a port moves that port's input. -/
theorem readsChangeOnlyPortInputs : Obligations.ReadsChangeOnlyPortInputs := by
  intro s a
  refine ⟨fun hfb hfc => ?_, s.portNext_eq_headD .fb, s.portNext_eq_headD .fc,
    readsAll_one rfl rfl, by simp, by simp, ⟨by simp, by simp⟩, ?_⟩
  · have hmemory : portAt a = none := portAt_eq_none.2 ⟨hfb, hfc⟩
    exact ⟨s.afterRead_memory hmemory, s.readVal_memory hmemory⟩
  · simp [State.hasRegisters]

/-- Settles O25: a write reaches memory at the ordinary addresses only, and never a port's input. -/
theorem readAfterWrite : Obligations.ReadAfterWrite :=
  State.write_readVal_ordinary

/-- Settles O13: the accesses of each instruction are those of the table, by its shape. -/
theorem accessesAreTheTablesOwn : Obligations.AccessesAreTheTablesOwn := by
  intro i s t h
  have haccesses := exec_accesses h
  obtain ⟨out, hout, hports⟩ := haccesses.portOut
  refine ⟨fun b hb => haccesses.cell b fun hw => hb hw.1, ?_, haccesses.reads⟩
  rw [hout, List.map_append, hports]

/-- Settles O12: a step only makes accesses, and a write reaches neither a read-only cell nor a port's. -/
theorem stepKeepsBoardAndReadOnlyCells : Obligations.StepKeepsBoardAndReadOnlyCells := by
  intro s t h
  obtain ⟨_, _, haccesses⟩ := step_accesses h
  obtain ⟨hlines, hboard⟩ := haccesses.lines
  obtain ⟨out, hout, _⟩ := haccesses.portOut
  have hcell : ∀ b, ¬ s.ordinary b → t.cell b = s.cell b := fun b hb =>
    haccesses.cell b fun hw => hb hw.2
  exact ⟨hboard, fun a ha => hcell a fun hordinary => hordinary.2.2 ha,
    hcell _ fun hordinary => hordinary.1 rfl, hcell _ fun hordinary => hordinary.2.1 rfl,
    hlines, out, hout⟩

/-- Settles O11: a step only makes accesses, and each access keeps the invariant. -/
theorem stepKeepsTheInvariant : Obligations.StepKeepsTheInvariant := by
  intro s t hinv h
  obtain ⟨_, _, haccesses⟩ := step_accesses h
  exact haccesses.inv hinv

/-- Settles O9, by induction on the number of steps: each one answers (O8) and keeps what the run keeps (O11, O12),
and the boundaries to come are among those that were. -/
theorem runsNeverStop : Obligations.RunsNeverStop := by
  intro k
  induction k with
  | zero => exact fun s _ hinv => ⟨s, rfl, hinv, rfl, fun _ _ => rfl, rfl, [], by simp⟩
  | succ k ih =>
    intro s hidle hinv
    obtain ⟨t, hstep⟩ :=
      (stepStopsOnlyForResetInsideAnInstruction s).2 (State.boundary_reset_ne hidle)
    obtain ⟨hboard, hcell, -, -, hlines, out, hout⟩ := stepKeepsBoardAndReadOnlyCells s t hstep
    have hidle' : ∀ b ∈ t.lines, b.reset ≠ .insideInstruction := fun b hb =>
      hidle b (List.mem_of_mem_tail (hlines ▸ hb))
    obtain ⟨u, hrun, hinv', hboard', hcell', hlines', out', hout'⟩ :=
      ih t hidle' (stepKeepsTheInvariant s t hinv hstep)
    have hrun' : Sys2Proof.core.run (k + 1) s = .next u :=
      (run_succ_of_step (M := Sys2Proof.core) k hstep).trans hrun
    refine ⟨u, hrun', hinv', hboard'.trans hboard, fun a ha => ?_, ?_, out ++ out', ?_⟩
    · exact (hcell' a (hboard ▸ ha)).trans (hcell a ha)
    · rw [hlines', hlines, List.drop_tail]
    · rw [hout', hout, List.append_assoc]

end Sys2Proof.Machine

/-! The opcode map in both directions (30_encoding.md R75 to R81, R96): a row holds instructions that encode to its
opcode, and a well-formed instruction stands in the row of its opcode.  With them O1 to O5, and the addresses of the
memory modes (R86 to R95), O27. -/

namespace Sys2Proof

open Sys2Proof.Machine

/-! From the map to the instructions: every cell holds well-formed instructions with its own opcode. -/

section cells

/-- Whatever the operand byte, the row's instruction is well formed and has this opcode. -/
def OpRow.Codes (op : Byte) (r : OpRow) : Prop :=
  ∀ n, (r.instr n).wf = true ∧ (r.instr n).opcode = op

/-- The rows, one after the other, have the opcodes from `base` on. -/
def CodesFrom (base : Byte) (rows : List OpRow) : Prop :=
  rows.zipIdx.Forall fun cell => cell.1.Codes (base + BitVec.ofNat 8 cell.2)

variable {base : Byte} {rows rows' : List OpRow}

theorem CodesFrom.getElem? (h : CodesFrom base rows) {k : Nat} {r : OpRow} (hr : rows[k]? = some r) :
    r.Codes (base + BitVec.ofNat 8 k) :=
  List.forall_iff_forall_mem.1 h (r, k) (List.mem_zipIdx_iff_getElem?.2 hr)

theorem codesFrom_append : CodesFrom base (rows ++ rows') ↔
    CodesFrom base rows ∧ CodesFrom (base + BitVec.ofNat 8 rows.length) rows' := by
  have hshift : rows'.zipIdx rows.length = rows'.zipIdx.map fun cell => (cell.1, rows.length + cell.2) :=
    List.zipIdx_eq_map_add
  simp only [CodesFrom, List.zipIdx_append, List.forall_append, Nat.zero_add, hshift,
    List.forall_map_iff, Function.comp_def, BitVec.ofNat_add, BitVec.add_assoc]

/-- A pattern of rows over the operands `α` (modes or source operands) that stands for operands which pass `check`
and lie in the column at `base`. -/
def InColumn {α : Type} (check : α → Bool) (column : α → Byte) (row : (α → Instr) → OpRow)
    (base : Byte) : Prop :=
  ∀ n, ∃ o, check o = true ∧ column o = base ∧ ∀ mk, (row mk).instr n = mk o

/-- An instruction written into a column `j` cells below its top. -/
theorem InColumn.codes {α : Type} {check : α → Bool} {column : α → Byte}
    {row : (α → Instr) → OpRow} (hrow : InColumn check column row base) {mk : α → Instr} {j : Byte}
    (hwf : ∀ o, check o = true → (mk o).wf = true) (hop : ∀ o, (mk o).opcode = column o + j) :
    (row mk).Codes (base + j) := by
  intro n
  obtain ⟨o, hcheck, hcolumn, hinstr⟩ := hrow n
  rw [hinstr, hop, hcolumn]
  exact ⟨hwf o hcheck, rfl⟩

/-- The row pattern of one of columns 3 to 8. -/
abbrev InMemColumn := InColumn MemMode.isPlain MemMode.memColumnOpcode

/-- The row pattern of one of columns 9 to D. -/
abbrev InSourceColumn := InColumn Operand.isBinary Operand.sourceColumnOpcode

theorem rowAb_inColumn : InMemColumn rowAb 0x30 := fun n => ⟨.ab n, rfl, rfl, fun _ => rfl⟩
theorem rowNs_inColumn : InMemColumn rowNs 0x40 := fun n => ⟨.ns n, rfl, rfl, fun _ => rfl⟩
theorem rowNx_inColumn : InMemColumn rowNx 0x50 := fun n => ⟨.nx n, rfl, rfl, fun _ => rfl⟩
theorem rowAx_inColumn : InMemColumn rowAx 0x60 := fun _ => ⟨.ax, rfl, rfl, fun _ => rfl⟩
theorem rowNy_inColumn : InMemColumn rowNy 0x70 := fun n => ⟨.ny n, rfl, rfl, fun _ => rfl⟩
theorem rowAy_inColumn : InMemColumn rowAy 0x80 := fun _ => ⟨.ay, rfl, rfl, fun _ => rfl⟩

theorem rowIm_inColumn : InSourceColumn rowIm 0x90 := fun n => ⟨.im n, rfl, rfl, fun _ => rfl⟩
theorem rowMemAb_inColumn : InSourceColumn (rowMem rowAb) 0xA0 :=
  fun n => ⟨.mem (.ab n), rfl, rfl, fun _ => rfl⟩
theorem rowMemNs_inColumn : InSourceColumn (rowMem rowNs) 0xB0 :=
  fun n => ⟨.mem (.ns n), rfl, rfl, fun _ => rfl⟩
theorem rowMemNx_inColumn : InSourceColumn (rowMem rowNx) 0xC0 :=
  fun n => ⟨.mem (.nx n), rfl, rfl, fun _ => rfl⟩
theorem rowMemNy_inColumn : InSourceColumn (rowMem rowNy) 0xD0 :=
  fun n => ⟨.mem (.ny n), rfl, rfl, fun _ => rfl⟩

theorem memColumn_codes {row : (MemMode → Instr) → OpRow} {cell3 cell4 : OpRow}
    (hrow : InMemColumn row base) (h3 : cell3.Codes (base + 3)) (h4 : cell4.Codes (base + 4)) :
    CodesFrom base (memColumn row cell3 cell4) := by
  refine ⟨hrow.codes (fun _ h => h) fun _ => (BitVec.add_zero _).symm, ?_, ?_, h3, h4,
    ?_, ?_, ?_, ?_, ?_, ?_, ?_, ?_, ?_, ?_, ?_⟩ <;>
    exact hrow.codes (fun _ h => h) fun _ => rfl

theorem sourceColumn_codes {row : (Operand → Instr) → OpRow} {cellC cellD cellE cellF : OpRow}
    (hrow : InSourceColumn row base) (hC : cellC.Codes (base + 12)) (hD : cellD.Codes (base + 13))
    (hE : cellE.Codes (base + 14)) (hF : cellF.Codes (base + 15)) :
    CodesFrom base (sourceColumn row cellC cellD cellE cellF) := by
  refine ⟨hrow.codes (fun _ h => h) fun _ => (BitVec.add_zero _).symm,
    ?_, ?_, ?_, ?_, ?_, ?_, ?_, ?_, ?_, ?_, ?_, hC, hD, hE, hF⟩ <;>
    exact hrow.codes (fun _ h => h) fun _ => rfl

/-- The columns without a pattern: each cell is written out with its own instruction. -/
theorem writtenColumns_code :
    CodesFrom 0x00 column0 ∧ CodesFrom 0x10 column1 ∧ CodesFrom 0x20 column2 ∧
    CodesFrom 0xE0 columnE ∧ CodesFrom 0xF0 columnF := by
  simp only [CodesFrom, column0, column1, column2, columnE, columnF, List.zipIdx_cons,
    List.zipIdx_nil, List.forall_cons, List.Forall]
  and_intros <;> exact fun _ => ⟨rfl, rfl⟩

theorem column0_length : column0.length = 16 := rfl
theorem column1_length : column1.length = 16 := rfl
theorem column2_length : column2.length = 16 := rfl
theorem columnE_length : columnE.length = 16 := rfl
theorem columnF_length : columnF.length = 16 := rfl

theorem memColumn_length (row : (MemMode → Instr) → OpRow) (cell3 cell4 : OpRow) :
    (memColumn row cell3 cell4).length = 16 := rfl

theorem sourceColumn_length (row : (Operand → Instr) → OpRow) (cellC cellD cellE cellF : OpRow) :
    (sourceColumn row cellC cellD cellE cellF).length = 16 := rfl

theorem opcodeMap_codes : CodesFrom 0x00 opcodeMap := by
  obtain ⟨h0, h1, h2, hE, hF⟩ := writtenColumns_code
  simp only [opcodeMap, codesFrom_append, and_assoc, List.length_append, column0_length,
    column1_length, column2_length, memColumn_length, sourceColumn_length, columnE_length]
  refine ⟨h0, h1, h2,
    memColumn_codes rowAb_inColumn ?_ ?_, memColumn_codes rowNs_inColumn ?_ ?_,
    memColumn_codes rowNx_inColumn ?_ ?_, memColumn_codes rowAx_inColumn ?_ ?_,
    memColumn_codes rowNy_inColumn ?_ ?_, memColumn_codes rowAy_inColumn ?_ ?_,
    sourceColumn_codes rowIm_inColumn ?_ ?_ ?_ ?_,
    sourceColumn_codes rowMemAb_inColumn ?_ ?_ ?_ ?_,
    sourceColumn_codes rowMemNs_inColumn ?_ ?_ ?_ ?_,
    sourceColumn_codes rowMemNx_inColumn ?_ ?_ ?_ ?_,
    sourceColumn_codes rowMemNy_inColumn ?_ ?_ ?_ ?_,
    hE, hF⟩ <;> exact fun _ => ⟨rfl, rfl⟩

theorem opcodeMap_length : opcodeMap.length = 256 := by
  simp only [opcodeMap, List.length_append, column0_length, column1_length, column2_length,
    memColumn_length, sourceColumn_length, columnE_length, columnF_length]

/-- Every opcode value has a cell of its own in the map, so `opcodeRow` never falls past its end (R81). -/
theorem opcodeRow_codes (op : Byte) : (opcodeRow op).Codes op := by
  have hlt : op.toNat < opcodeMap.length := opcodeMap_length ▸ op.isLt
  have hcodes := opcodeMap_codes.getElem? (List.getElem?_eq_getElem hlt)
  rw [BitVec.ofNat_toNat, BitVec.setWidth_eq, zero_add] at hcodes
  rwa [opcodeRow, List.getD_eq_getElem _ _ hlt]

end cells

/-! The operands that each check of WellFormed.lean lets pass. -/

section checks

variable {m : MemMode} {o : Operand}

theorem MemMode.isPlain_iff : m.isPlain = true ↔
    (∃ n, m = .ab n ∨ m = .ns n ∨ m = .nx n ∨ m = .ny n) ∨ m = .ax ∨ m = .ay := by
  cases m <;> simp [isPlain]

theorem MemMode.isJump_iff : m.isJump = true ↔
    (∃ n, m = .ab n ∨ m = .nx n ∨ m = .ny n) ∨ m = .ax ∨ m = .ay := by
  cases m <;> simp [isJump]

theorem MemMode.isLeax_iff : m.isLeax = true ↔ ∃ n, m = .nx n ∨ m = .ns n := by
  cases m <;> simp [isLeax]

theorem MemMode.isLeay_iff : m.isLeay = true ↔ ∃ n, m = .ny n ∨ m = .ns n := by
  cases m <;> simp [isLeay]

theorem MemMode.isLeasp_iff : m.isLeasp = true ↔ ∃ n, m = .ns n ∨ m = .nx n ∨ m = .ny n := by
  cases m <;> simp [isLeasp]

theorem Operand.isBinary_iff : o.isBinary = true ↔
    ∃ n, o = .im n ∨ o = .mem (.ab n) ∨ o = .mem (.ns n) ∨ o = .mem (.nx n) ∨ o = .mem (.ny n) := by
  rcases o with n | m
  · simp [isBinary]
  · cases m <;> simp [isBinary]

theorem Operand.isCmpXY_iff : o.isCmpXY = true ↔
    ∃ n, o = .im n ∨ o = .mem (.ab n) ∨ o = .mem (.ns n) := by
  rcases o with n | m
  · simp [isCmpXY]
  · cases m <;> simp [isCmpXY]

theorem Operand.isCmpSP_iff : o.isCmpSP = true ↔ ∃ n, o = .im n ∨ o = .mem (.ab n) := by
  rcases o with n | m
  · simp [isCmpSP]
  · cases m <;> simp [isCmpSP]

theorem mem_illegalOpcodes {op : Byte} : op ∈ illegalOpcodes ↔
    op = 0x03 ∨ op = 0x04 ∨ op = 0xDF ∨ op = 0xE0 ∨ op = 0xEF ∨ op = 0xFF := by
  simp [illegalOpcodes]

end checks

/-! From the instructions to the map: a well-formed instruction stands in the row of its opcode. -/

section rows

/-- The row gives the instruction for its own operand byte, and for every operand byte an instruction of the same
mode and the same cycles. -/
structure Instr.InRow (i : Instr) (r : OpRow) : Prop where
  instr : r.instr (i.operandBytes.headD 0) = i
  form : ∀ n, instrForm (r.instr n) = instrForm i
  cycles : ∀ n, cycles (r.instr n) = cycles i

/-- A blank cell is the trap of its own opcode, and only the six illegal opcodes have one (R81). -/
theorem opcodeRow_of_mem_illegalOpcodes {op : Byte} (h : op ∈ illegalOpcodes) :
    opcodeRow op = blankCell op := by
  obtain rfl | rfl | rfl | rfl | rfl | rfl := mem_illegalOpcodes.1 h <;> rfl

/-- The cases stand in the order of the checks of `Instr.wf`; once the mode is known, the row is a cell of the map. -/
theorem Instr.inRow_of_wf {i : Instr} (h : i.wf = true) : i.InRow (opcodeRow i.opcode) := by
  cases i
  case illegal op =>
    rw [opcode, opcodeRow_of_mem_illegalOpcodes (List.contains_iff_mem.1 h)]
    exact ⟨rfl, fun _ => rfl, fun _ => rfl⟩
  case stx | sty | stsp | clr | neg | inc | dec | tst | com | lsl | lsr | rol | ror | asr =>
    obtain ⟨n, rfl | rfl | rfl | rfl⟩ | rfl | rfl := MemMode.isPlain_iff.1 h <;>
      exact ⟨rfl, fun _ => rfl, fun _ => rfl⟩
  case jmp | jsr =>
    obtain ⟨n, rfl | rfl | rfl⟩ | rfl | rfl := MemMode.isJump_iff.1 h <;>
      exact ⟨rfl, fun _ => rfl, fun _ => rfl⟩
  case leax =>
    obtain ⟨n, rfl | rfl⟩ := MemMode.isLeax_iff.1 h <;> exact ⟨rfl, fun _ => rfl, fun _ => rfl⟩
  case leay =>
    obtain ⟨n, rfl | rfl⟩ := MemMode.isLeay_iff.1 h <;> exact ⟨rfl, fun _ => rfl, fun _ => rfl⟩
  case leasp =>
    obtain ⟨n, rfl | rfl | rfl⟩ := MemMode.isLeasp_iff.1 h <;>
      exact ⟨rfl, fun _ => rfl, fun _ => rfl⟩
  case ldx | ldy | ldsp | sbca | suba | adca | adda | cmpa | bita | anda | ora | eora =>
    obtain ⟨n, rfl | rfl | rfl | rfl | rfl⟩ := Operand.isBinary_iff.1 h <;>
      exact ⟨rfl, fun _ => rfl, fun _ => rfl⟩
  case cmpx | cmpy =>
    obtain ⟨n, rfl | rfl | rfl⟩ := Operand.isCmpXY_iff.1 h <;>
      exact ⟨rfl, fun _ => rfl, fun _ => rfl⟩
  case cmpsp =>
    obtain ⟨n, rfl | rfl⟩ := Operand.isCmpSP_iff.1 h <;> exact ⟨rfl, fun _ => rfl, fun _ => rfl⟩
  case sta m => cases m <;> exact ⟨rfl, fun _ => rfl, fun _ => rfl⟩
  case lda o =>
    rcases o with n | m
    · exact ⟨rfl, fun _ => rfl, fun _ => rfl⟩
    · cases m <;> exact ⟨rfl, fun _ => rfl, fun _ => rfl⟩
  all_goals exact ⟨rfl, fun _ => rfl, fun _ => rfl⟩

/-- Of the well-formed instructions those with an illegal opcode are the traps. -/
theorem Instr.isIllegal_iff_opcode_mem {i : Instr} (h : i.wf = true) :
    (∃ op, i = .illegal op) ↔ i.opcode ∈ illegalOpcodes := by
  constructor
  · rintro ⟨op, rfl⟩
    exact List.contains_iff_mem.1 h
  · intro hmem
    have hself := (inRow_of_wf h).instr
    rw [opcodeRow_of_mem_illegalOpcodes hmem] at hself
    exact ⟨i.opcode, hself.symm⟩

end rows

/-! Decoding and encoding in terms of the rows. -/

section codec

theorem encode_of_wf {i : Instr} (h : i.wf = true) : encode i = i.opcode :: i.operandBytes := by
  rw [encode, if_pos h]

section oneRow

variable {op n : Byte} {i : Instr} {f : Byte → Instr} {rest : List Byte}

theorem decode_of_one (h : opcodeRow op = .one i) : decode (op :: rest) = .ok (i, rest) := by
  simp [decode, h]

theorem decode_of_two_nil (h : opcodeRow op = .two f) : decode [op] = .error (.noOperandByte op) := by
  simp [decode, h]

theorem decode_of_two_cons (h : opcodeRow op = .two f) :
    decode (op :: n :: rest) = .ok (f n, rest) := by
  simp [decode, h]

theorem operandBytes_of_one (h : opcodeRow op = .one i) : i.operandBytes = [] := by
  have hfits := opcodeRow_fits op 0
  rwa [h] at hfits

theorem operandBytes_of_two (h : opcodeRow op = .two f) : (f n).operandBytes = [n] := by
  have hfits := opcodeRow_fits op n
  rwa [h] at hfits

end oneRow

/-- A row decodes its own instructions, whatever follows them. -/
theorem decode_row (op n : Byte) (rest : List Byte) :
    decode (op :: (((opcodeRow op).instr n).operandBytes ++ rest)) =
      .ok ((opcodeRow op).instr n, rest) := by
  cases hrow : opcodeRow op with
  | one i => rw [OpRow.instr, operandBytes_of_one hrow]; exact decode_of_one hrow
  | two f => rw [OpRow.instr, operandBytes_of_two hrow]; exact decode_of_two_cons hrow

/-- Whatever decodes, decodes by a row. -/
theorem exists_row_of_decode {bytes rest : List Byte} {i : Instr} (h : decode bytes = .ok (i, rest)) :
    ∃ op n, (opcodeRow op).instr n = i ∧ bytes = op :: (i.operandBytes ++ rest) := by
  cases bytes with
  | nil => cases h
  | cons op tail =>
    refine ⟨op, tail.headD 0, ?_⟩
    cases hrow : opcodeRow op with
    | one j =>
      cases (decode_of_one hrow).symm.trans h
      exact ⟨rfl, by rw [operandBytes_of_one hrow, List.nil_append]⟩
    | two f =>
      cases tail with
      | nil => cases (decode_of_two_nil hrow).symm.trans h
      | cons n tail =>
        cases (decode_of_two_cons hrow).symm.trans h
        exact ⟨rfl, by rw [operandBytes_of_two hrow, List.singleton_append]⟩

end codec

end Sys2Proof

namespace Sys2Proof.Machine

/-! The length (R76) and the cycles (R289, R290). -/

section lengthAndCycles

theorem modeForm_hasOperand (m : MemMode) :
    m.operandBytes.length = if (modeForm m).hasOperand then 1 else 0 := by
  cases m <;> rfl

theorem operandForm_hasOperand (o : Operand) :
    o.operandBytes.length = if (operandForm o).hasOperand then 1 else 0 := by
  cases o with
  | im n => rfl
  | mem m => exact modeForm_hasOperand m

theorem instrForm_hasOperand (i : Instr) :
    i.operandBytes.length = if (instrForm i).hasOperand then 1 else 0 := by
  cases i
  case stx | sty | stsp | jmp | jsr | clr | neg | inc | dec | tst | com | lsl | lsr | rol | ror | asr
      | leasp | leax | leay | sta => exact modeForm_hasOperand _
  case ldx | ldy | ldsp | sbca | suba | adca | adda | cmpa | bita | anda | ora | eora | cmpx | cmpy
      | cmpsp | lda => exact operandForm_hasOperand _
  all_goals rfl

theorem Form.hasOperand_iff (f : Form) :
    f.hasOperand = true ↔ f ∈ [.im, .ab, .pc, .ns, .nx, .ny] := by
  cases f <;> decide

/-- The source gives no cycle count for the traps alone (R290). -/
theorem cycles_eq_none_iff {i : Instr} : cycles i = none ↔ ∃ op, i = .illegal op := by
  cases i
  case illegal op => exact ⟨fun _ => ⟨op, rfl⟩, fun _ => rfl⟩
  case jmp m | jsr m => cases m <;> exact ⟨nofun, nofun⟩
  case lda o => cases o <;> exact ⟨nofun, nofun⟩
  all_goals exact ⟨nofun, nofun⟩

end lengthAndCycles

/-! The obligations. -/

/-- Settles O1: the instruction stands in the row of its opcode, and a row decodes its own instructions. -/
theorem decodeReversesEncode : Obligations.DecodeReversesEncode := by
  intro i rest hwf
  have hdecode := decode_row i.opcode (i.operandBytes.headD 0) rest
  rw [(Instr.inRow_of_wf hwf).instr] at hdecode
  rw [encode_of_wf hwf]
  exact hdecode

/-- Settles O2: the bytes were decoded by a row, and every row holds well-formed instructions with its own opcode. -/
theorem encodeReversesDecode : Obligations.EncodeReversesDecode := by
  intro bytes i rest h
  obtain ⟨op, n, rfl, rfl⟩ := exists_row_of_decode h
  obtain ⟨hwf, hop⟩ := opcodeRow_codes op n
  rw [encode_of_wf hwf, hop]
  exact ⟨hwf, rfl⟩

/-- Settles O3: instructions with one opcode stand in one row, and the mode fixes the length. -/
theorem opcodeAloneFixesModeLengthAndCycles : Obligations.OpcodeAloneFixesModeLengthAndCycles := by
  refine ⟨fun i j hi hj hop => ?_, fun i hi => ?_, by decide, fun i hi => ?_⟩
  · have hrow := Instr.inRow_of_wf hi
    rw [hop] at hrow
    have hrow' := Instr.inRow_of_wf hj
    exact ⟨(hrow.form 0).symm.trans (hrow'.form 0), (hrow.cycles 0).symm.trans (hrow'.cycles 0)⟩
  · rw [encode_of_wf hi, List.length_cons, instrForm_hasOperand]
    simp only [Form.hasOperand_iff]
    split <;> rfl
  · rw [cycles_eq_none_iff, Instr.isIllegal_iff_opcode_mem hi]

/-- Settles O4: the row of `op` decodes, and the byte `n` is its operand or is left over. -/
theorem illegalOpcodesAreExactlySix : Obligations.IllegalOpcodesAreExactlySix := by
  intro op n
  obtain ⟨hwf, hop⟩ := opcodeRow_codes op n
  have hbytes : ∃ rest, [op, n] = op :: (((opcodeRow op).instr n).operandBytes ++ rest) := by
    rw [opcodeRow_fits op n]
    split
    · exact ⟨[], rfl⟩
    · exact ⟨[n], rfl⟩
  obtain ⟨rest, hbytes⟩ := hbytes
  refine ⟨_, rest, hbytes ▸ decode_row op n rest, hop, ?_⟩
  rw [Instr.isIllegal_iff_opcode_mem hwf, hop, mem_illegalOpcodes]

/-- Settles O5, by running the decoder on each word. -/
theorem sampleWordsDecode : Obligations.SampleWordsDecode := by
  and_intros <;> rfl

/-- Settles O27: a sum on bytes is the sum modulo 256, and `- 1` is `+ 255`. -/
theorem effectiveAddresses : Obligations.EffectiveAddresses := by
  intro s n
  have hsub : ∀ b : Byte, (b - 1).toNat = (b.toNat + 255) % 256 := fun b => by bv_omega
  have hadd : ∀ b c : Byte, (b + c).toNat = (b.toNat + c.toNat) % 256 := BitVec.toNat_add
  exact ⟨rfl, hadd _ _, hadd _ _, hadd _ _, hadd _ _, hadd _ _,
    rfl, hadd _ _, rfl, hsub _, rfl, hadd _ _, rfl, hsub _,
    rfl, hadd _ _, rfl, hsub _, rfl, hadd _ _, rfl, hsub _⟩

end Sys2Proof.Machine

/-! The load, store and load-effective-address instructions (40_load_store.md R111 to R121): their codes by the
patterns of the opcode map (30_encoding.md R78, R80), and their effects by the shapes of Machine/Operands.lean.
With them O28 to O32. -/

namespace Sys2Proof.Machine

/-! The codes: a well-formed instruction decodes from its own bytes (O1), so its code is its opcode, its operand
byte and its cycles. -/

section codes

variable {row base : Byte} {n : Nat}

theorem codedAs_of_wf {i : Instr} {op : Byte} {rest : List Byte} (hwf : i.wf = true)
    (hop : i.opcode = op) (hrest : i.operandBytes = rest) (hcycles : cycles i = some n) :
    codedAs i (op :: rest) n := by
  have hencode : encode i = op :: rest := by rw [encode_of_wf hwf, hop, hrest]
  have hdecode := decodeReversesEncode i [] hwf
  rw [List.append_nil, hencode] at hdecode
  exact ⟨hwf, hencode, hdecode, hcycles⟩

/-- One row of columns 9 to D: the mode selects the column. -/
theorem codedSource_of_row {mk : Operand → Instr}
    (h : ∀ o, o.isBinary = true →
      codedAs (mk o) ((o.sourceColumnOpcode + row) :: o.operandBytes) (sourceCycles n o)) :
    codedSource mk (0x90 + row) (0xA0 + row) (0xB0 + row) (0xC0 + row) (0xD0 + row) n :=
  fun d => ⟨h (.im d) rfl, h (.mem (.ab d)) rfl, h (.mem (.ns d)) rfl, h (.mem (.nx d)) rfl,
    h (.mem (.ny d)) rfl⟩

/-- One row of columns 3 to 8: the mode selects the column. -/
theorem codedMem_of_row {mk : MemMode → Instr}
    (h : ∀ m, m.isPlain = true →
      codedAs (mk m) ((m.memColumnOpcode + row) :: m.operandBytes) n) :
    codedMem mk (0x30 + row) (0x40 + row) (0x50 + row) (0x60 + row) (0x70 + row) (0x80 + row) n :=
  ⟨fun d => ⟨h (.ab d) rfl, h (.ns d) rfl, h (.nx d) rfl, h (.ny d) rfl⟩, h .ax rfl, h .ay rfl⟩

/-- Column E or F: the mode selects the row. -/
theorem codedAuto_of_column {mk : MemMode → Instr}
    (h : ∀ m, codedAs (mk m) ((base + m.rowEF) :: m.operandBytes) (accessCycles m)) :
    codedAuto mk base :=
  ⟨fun d => ⟨h (.ab d), h (.ns d), h (.nx d), h (.ny d)⟩, h .ax, h .ay,
    h .xPostInc, h .xPostDec, h .xPreInc, h .xPreDec,
    h .yPostInc, h .yPostDec, h .yPreInc, h .yPreDec⟩

end codes

/-! The loads: one lemma for the shape, whichever register is written. -/

section loads

/-- The states differ in registers only: memory, the ports, the input lines and the board are the same. -/
structure State.SameOutsideRegisters (t u : State) : Prop where
  mem : u.mem = t.mem
  portOut : u.portOut = t.portOut
  portFB : u.portFB = t.portFB
  portFC : u.portFC = t.portFC
  lines : u.lines = t.lines
  board : u.board = t.board

theorem State.setA_sameOutside (t : State) (v : Byte) : t.SameOutsideRegisters (t.setA v) :=
  ⟨rfl, rfl, rfl, rfl, rfl, rfl⟩

theorem State.setX_sameOutside (t : State) (v : Byte) : t.SameOutsideRegisters (t.setX v) :=
  ⟨rfl, rfl, rfl, rfl, rfl, rfl⟩

theorem State.setY_sameOutside (t : State) (v : Byte) : t.SameOutsideRegisters (t.setY v) :=
  ⟨rfl, rfl, rfl, rfl, rfl, rfl⟩

theorem State.setSP_sameOutside (t : State) (v : Byte) : t.SameOutsideRegisters (t.setSP v) :=
  ⟨rfl, rfl, rfl, rfl, rfl, rfl⟩

variable {i : Instr} {setR : State → Byte → State} {a x y sp : Byte} (o : Operand) (s : State)

/-- A load's effect, from what `setR` does to the registers; the flags are those of `CC.ofLogic`, N and Z of the
operand and V cleared. -/
theorem sourceEffect_of_loadInto (he : exec i s = .next (loadInto setR o s))
    (hset : ∀ (t : State) (v : Byte), t.SameOutsideRegisters (setR t v))
    (hr : (setR (readOperand o s).2 (operandValue o s)).hasRegisters a x y sp s.pc s.cc) :
    sourceEffect i o s a x y sp (s.cc.ofLogic (operandValue o s)) := by
  have hout := hset (readOperand o s).2 (operandValue o s)
  obtain ⟨ha, hx, hy, hsp, hpc, -⟩ := hr
  rw [loadInto_eq] at he
  exact sourceEffect_of he ⟨ha, hx, hy, hsp, hpc, rfl⟩
    (hout.mem.trans (readOperand_mem o s)) (hout.portOut.trans (readOperand_portOut o s))
    hout.portFB hout.portFC
    (hout.lines.trans (readOperand_lines o s)) (hout.board.trans (readOperand_board o s))

theorem lda_effect : sourceEffect (.lda o) o s (operandValue o s) (operandX o s) (operandY o s)
    s.sp (s.cc.ofLogic (operandValue o s)) :=
  sourceEffect_of_loadInto o s rfl State.setA_sameOutside (by simp [State.hasRegisters])

theorem ldx_effect : sourceEffect (.ldx o) o s s.a (operandValue o s) (operandY o s)
    s.sp (s.cc.ofLogic (operandValue o s)) :=
  sourceEffect_of_loadInto o s rfl State.setX_sameOutside (by simp [State.hasRegisters])

theorem ldy_effect : sourceEffect (.ldy o) o s s.a (operandX o s) (operandValue o s)
    s.sp (s.cc.ofLogic (operandValue o s)) :=
  sourceEffect_of_loadInto o s rfl State.setY_sameOutside (by simp [State.hasRegisters])

theorem ldsp_effect : sourceEffect (.ldsp o) o s s.a (operandX o s) (operandY o s)
    (operandValue o s) (s.cc.ofLogic (operandValue o s)) :=
  sourceEffect_of_loadInto o s rfl State.setSP_sameOutside (by simp [State.hasRegisters])

end loads

/-! The load-effective-address instructions: a register takes EA, whatever the mode, and no index register
moves. -/

section effectiveAddressLoads

variable (m : MemMode) (s : State)

theorem leax_effect :
    inherentEffect (.leax m) s s.a (effectiveAddress m s) s.y s.sp s.pc s.cc :=
  inherentEffect_of (t := s.setX (effectiveAddress m s)) rfl (by simp [State.hasRegisters])
    rfl rfl rfl rfl rfl rfl

theorem leay_effect :
    inherentEffect (.leay m) s s.a s.x (effectiveAddress m s) s.sp s.pc s.cc :=
  inherentEffect_of (t := s.setY (effectiveAddress m s)) rfl (by simp [State.hasRegisters])
    rfl rfl rfl rfl rfl rfl

theorem leasp_effect :
    inherentEffect (.leasp m) s s.a s.x s.y (effectiveAddress m s) s.pc s.cc :=
  inherentEffect_of (t := s.setSP (effectiveAddress m s)) rfl (by simp [State.hasRegisters])
    rfl rfl rfl rfl rfl rfl

end effectiveAddressLoads

/-! The stores. -/

/-- A write of the operand that leaves the flags. -/
theorem storeEffect_of_writeMem_keepsFlags {i : Instr} {m : MemMode} {s : State} {v : Byte}
    (he : exec i s = .next (writeMem m v s)) : storeEffect i m s v s.cc := by
  have hcc : writeMem m v s = (writeMem m v s).setCC s.cc := by
    conv_rhs => rw [← writeMem_cc m s v]
    rfl
  exact storeEffect_of_writeMem (he.trans (congrArg _ hcc))

/-! The obligations. -/

/-- Settles O28: column F row by row, and the load's shape with A as the register. -/
theorem loadA : Obligations.LoadA :=
  ⟨fun _ => codedAs_of_wf rfl rfl rfl rfl,
    codedAuto_of_column fun _ => codedAs_of_wf rfl rfl rfl rfl,
    lda_effect⟩

/-- Settles O29: rows 0, 1 and 2 of columns 9 to D, and the load's shape with each register; none of the five modes
moves an index register. -/
theorem loadXYSP : Obligations.LoadXYSP := by
  refine ⟨codedSource_of_row (row := 0) fun _ h => codedAs_of_wf h (BitVec.add_zero _).symm rfl rfl,
    codedSource_of_row (row := 1) fun _ h => codedAs_of_wf h rfl rfl rfl,
    codedSource_of_row (row := 2) fun _ h => codedAs_of_wf h rfl rfl rfl, fun o s ho => ?_⟩
  obtain ⟨hx, hy⟩ := operandXY_of_isBinary ho s
  have ldx := ldx_effect o s
  have ldy := ldy_effect o s
  have ldsp := ldsp_effect o s
  rw [hy] at ldx
  rw [hx] at ldy
  rw [hx, hy] at ldsp
  exact ⟨ldx, ldy, ldsp⟩

/-- Settles O30: the seven cells of the opcode map, and EA of each mode is its sum. -/
theorem loadEffectiveAddress : Obligations.LoadEffectiveAddress := by
  refine ⟨fun n => ?_, fun n s => ⟨leax_effect (.nx n) s, leax_effect (.ns n) s,
    leay_effect (.ny n) s, leay_effect (.ns n) s,
    leasp_effect (.ns n) s, leasp_effect (.nx n) s, leasp_effect (.ny n) s⟩⟩
  refine ⟨?_, ?_, ?_, ?_, ?_, ?_, ?_⟩ <;> exact codedAs_of_wf rfl rfl rfl rfl

/-- Settles O31: column E row by row, and one write of A at EA. -/
theorem storeA : Obligations.StoreA :=
  ⟨codedAuto_of_column fun _ => codedAs_of_wf rfl rfl rfl rfl,
    fun _ _ => storeEffect_of_writeMem_keepsFlags rfl⟩

/-- Settles O32: rows 0, 1 and 2 of columns 3 to 8, and one write of the register at EA. -/
theorem storeXYSP : Obligations.StoreXYSP :=
  ⟨codedMem_of_row (row := 0) fun _ h => codedAs_of_wf h (BitVec.add_zero _).symm rfl rfl,
    codedMem_of_row (row := 1) fun _ h => codedAs_of_wf h rfl rfl rfl,
    codedMem_of_row (row := 2) fun _ h => codedAs_of_wf h rfl rfl rfl,
    fun _ _ _ => ⟨storeEffect_of_writeMem_keepsFlags rfl, storeEffect_of_writeMem_keepsFlags rfl,
      storeEffect_of_writeMem_keepsFlags rfl⟩⟩

end Sys2Proof.Machine

/-! The register-to-register instructions TFR and EXG (41_data_movement.md R125 to R129) and NOP
(47_stack_misc.md R219): a register write or two, and nothing outside the registers.  With them O33 and O34. -/

namespace Sys2Proof.Machine

/-! What an instruction does that changes only registers: one rule for each register written. -/

section transfers

variable {i : Instr} {s t u : State} {a x y sp pc v : Byte} {cc : CC}

theorem State.SameOutsideRegisters.refl (s : State) : s.SameOutsideRegisters s :=
  ⟨rfl, rfl, rfl, rfl, rfl, rfl⟩

theorem State.SameOutsideRegisters.trans (hst : s.SameOutsideRegisters t)
    (htu : t.SameOutsideRegisters u) : s.SameOutsideRegisters u where
  mem := htu.mem.trans hst.mem
  portOut := htu.portOut.trans hst.portOut
  portFB := htu.portFB.trans hst.portFB
  portFC := htu.portFC.trans hst.portFC
  lines := htu.lines.trans hst.lines
  board := htu.board.trans hst.board

theorem State.setCC_sameOutside (t : State) (c : CC) : t.SameOutsideRegisters (t.setCC c) :=
  ⟨rfl, rfl, rfl, rfl, rfl, rfl⟩

theorem inherentEffect_of_sameOutside (he : exec i s = .next t) (hout : s.SameOutsideRegisters t)
    (hr : t.hasRegisters a x y sp pc cc) : inherentEffect i s a x y sp pc cc :=
  inherentEffect_of he hr hout.mem hout.portOut hout.portFB hout.portFC hout.lines hout.board

theorem inherentEffect_of_setA (he : exec i s = .next (s.setA v)) :
    inherentEffect i s v s.x s.y s.sp s.pc s.cc :=
  inherentEffect_of_sameOutside he (s.setA_sameOutside v) (by simp [State.hasRegisters])

theorem inherentEffect_of_setX (he : exec i s = .next (s.setX v)) :
    inherentEffect i s s.a v s.y s.sp s.pc s.cc :=
  inherentEffect_of_sameOutside he (s.setX_sameOutside v) (by simp [State.hasRegisters])

theorem inherentEffect_of_setY (he : exec i s = .next (s.setY v)) :
    inherentEffect i s s.a s.x v s.sp s.pc s.cc :=
  inherentEffect_of_sameOutside he (s.setY_sameOutside v) (by simp [State.hasRegisters])

theorem inherentEffect_of_setSP (he : exec i s = .next (s.setSP v)) :
    inherentEffect i s s.a s.x s.y v s.pc s.cc :=
  inherentEffect_of_sameOutside he (s.setSP_sameOutside v) (by simp [State.hasRegisters])

theorem inherentEffect_of_setCC (he : exec i s = .next (s.setCC cc)) :
    inherentEffect i s s.a s.x s.y s.sp s.pc cc :=
  inherentEffect_of_sameOutside he (s.setCC_sameOutside cc) (by simp [State.hasRegisters])

end transfers

/-! The exchanges: two register writes, each of the value that the other register had before. -/

section exchanges

variable (s : State)

theorem exgACC_effect :
    inherentEffect .exgACC s s.cc.toByte s.x s.y s.sp s.pc (CC.ofByte s.a) :=
  inherentEffect_of_sameOutside rfl
    ((s.setA_sameOutside s.cc.toByte).trans (State.setCC_sameOutside _ (CC.ofByte s.a)))
    (by simp [State.hasRegisters])

theorem exgXY_effect : inherentEffect .exgXY s s.a s.y s.x s.sp s.pc s.cc :=
  inherentEffect_of_sameOutside rfl
    ((s.setX_sameOutside s.y).trans (State.setY_sameOutside _ s.x)) (by simp [State.hasRegisters])

theorem exgXSP_effect : inherentEffect .exgXSP s s.a s.sp s.y s.x s.pc s.cc :=
  inherentEffect_of_sameOutside rfl
    ((s.setX_sameOutside s.sp).trans (State.setSP_sameOutside _ s.x)) (by simp [State.hasRegisters])

theorem exgYSP_effect : inherentEffect .exgYSP s s.a s.x s.sp s.y s.pc s.cc :=
  inherentEffect_of_sameOutside rfl
    ((s.setY_sameOutside s.sp).trans (State.setSP_sameOutside _ s.y)) (by simp [State.hasRegisters])

/-- A second EXG A,CC moves each register back through the other's format: CC as a byte loses nothing, and A as
flags loses bits 7 to 5 (R32). -/
theorem execAll_exgACC_twice :
    ∃ t, execAll [.exgACC, .exgACC] s = .next t ∧ t.a = s.a &&& 0x1F ∧ t.cc = s.cc := by
  obtain ⟨t, ht, ⟨hta, -, -, -, -, htcc⟩, -⟩ := exgACC_effect s
  obtain ⟨u, hu, ⟨hua, -, -, -, -, hucc⟩, -⟩ := exgACC_effect t
  refine ⟨u, by simp only [execAll, ht, hu], ?_, ?_⟩
  · rw [hua, htcc, CC.toByte_ofByte]
  · rw [hucc, hta, CC.ofByte_toByte]

end exchanges

/-! The obligations. -/

/-- Settles O33: three cells of the opcode map, and the flags named are the bits that `CC.ofByte` takes from A. -/
theorem transferAndExchangeFlags : Obligations.TransferAndExchangeFlags := by
  refine ⟨?_, ?_, ?_, fun s => ⟨inherentEffect_of_setCC rfl, inherentEffect_of_setA rfl,
    exgACC_effect s, execAll_exgACC_twice s⟩⟩
  all_goals exact codedAs_of_wf rfl rfl rfl rfl

/-- Settles O34: ten cells of the opcode map, and the second register named takes the first one's value (R106). -/
theorem transferAndExchangeRegisters : Obligations.TransferAndExchangeRegisters := by
  refine ⟨?_, ?_, ?_, ?_, ?_, ?_, ?_, ?_, ?_, ?_, fun s => ⟨inherentEffect_of_setY rfl,
    inherentEffect_of_setX rfl, inherentEffect_of_setSP rfl, inherentEffect_of_setX rfl,
    inherentEffect_of_setSP rfl, inherentEffect_of_setY rfl,
    exgXY_effect s, exgXSP_effect s, exgYSP_effect s,
    inherentEffect_of_sameOutside rfl (.refl s) (by simp [State.hasRegisters])⟩⟩
  all_goals exact codedAs_of_wf rfl rfl rfl rfl

end Sys2Proof.Machine

/-! The flow control instructions (42_flow_control.md R130 to R151): PC written alone, PC written after one push, and
the pulls of the two returns.  With them O21 and O35 to O41. -/

namespace Sys2Proof.Machine

/-! The jump and the calls: in every mode the target is EA. -/

section jumpsAndCalls

variable (m : MemMode) (n : Byte) (s : State)

theorem State.setPC_sameOutside (t : State) (v : Byte) : t.SameOutsideRegisters (t.setPC v) :=
  ⟨rfl, rfl, rfl, rfl, rfl, rfl⟩

theorem jmp_effect :
    inherentEffect (.jmp m) s s.a s.x s.y s.sp (effectiveAddress m s) s.cc :=
  inherentEffect_of_sameOutside rfl (s.setPC_sameOutside (effectiveAddress m s))
    (by simp [State.hasRegisters])

theorem jsr_effect : pushEffect (.jsr m) s s.pc (effectiveAddress m s) :=
  pushEffect_of_push8 rfl

theorem bsr_effect : pushEffect (.bsr n) s s.pc (s.pc + n) :=
  pushEffect_of_push8 rfl

end jumpsAndCalls

/-! The conditions of the branches on several flags, as propositions on the flags (R144 to R149). -/

section conditions

variable (cc : CC)

theorem condHI_iff : condHI cc = true ↔ cc.c = false ∧ cc.z = false := by simp [condHI]

theorem condLS_iff : condLS cc = true ↔ cc.c = true ∨ cc.z = true := by simp [condLS]

theorem condGE_iff : condGE cc = true ↔ cc.n = cc.v := by simp [condGE]

theorem condLT_iff : condLT cc = true ↔ cc.n ≠ cc.v := by simp [condLT]

/-- BGT is BGE without equality. -/
theorem condGT_iff : condGT cc = true ↔ cc.n = cc.v ∧ cc.z = false := by simp [condGT]

/-- BLE is BLT or equality. -/
theorem condLE_iff : condLE cc = true ↔ cc.n ≠ cc.v ∨ cc.z = true := by simp [condLE]

end conditions

/-! BRA and the offset that the assembler stores. -/

section branchAlways

variable (n : Byte) (s : State)

theorem bra_effect : branchEffect (.bra n) n True s :=
  branchEffect_of_branchIf rfl (iff_of_true rfl trivial)

theorem exec_bra_pc : ∃ t, exec (.bra n) s = .next t ∧ t.pc = s.pc + n := by
  obtain ⟨t, ht, ⟨-, -, -, -, hpc, -⟩, -⟩ := bra_effect n s
  exact ⟨t, ht, hpc.trans (if_pos trivial)⟩

/-- The assembled offset is the distance from the byte after the branch, so added to it gives the address written
(R130, 30_encoding.md R97). -/
theorem add_operandByte_pc (here : Byte) (target : Int) :
    here + 2 + operandByte .pc here target = BitVec.ofInt 8 target := by
  rw [operandByte, BitVec.add_comm, BitVec.sub_add_cancel]

end branchAlways

/-! The returns. -/

section returns

variable {i : Instr} {s t : State} {ea v pc : Byte}

theorem rts_effect (s : State) : pullEffect .rts s s.a s.x s.y (s.readVal s.sp) s.cc :=
  pullEffect_of (t := (pull8 s).2.setPC (pull8 s).1) rfl (by simp [State.hasRegisters])
    (by simp) (by simp) rfl rfl (by simp) (by simp)

/-- A byte stored in ordinary memory is read back. -/
theorem storesAt.readVal (h : storesAt s t ea v) (hea : s.ordinary ea) : t.readVal ea = v := by
  obtain ⟨-, -, -, hmemory⟩ := h
  obtain ⟨hfb, hfc, hwritable⟩ := hea
  rw [State.readVal_memory t (portAt_eq_none.2 ⟨hfb, hfc⟩), (hmemory hfb hfc).2, if_neg hwritable]

/-- RTS undoes whatever pushed the return address: it reads the byte stored at SP - 1 and brings SP back. -/
theorem rts_returns_after_push (hpush : pushEffect i s s.pc pc) (hstack : s.ordinary (s.sp - 1)) :
    ∃ t u, exec i s = .next t ∧ exec .rts t = .next u ∧
      u.hasRegisters s.a s.x s.y s.sp s.pc s.cc := by
  obtain ⟨t, ht, ⟨hta, htx, hty, htsp, -, htcc⟩, hstored, -⟩ := hpush
  obtain ⟨u, hu, ⟨hua, hux, huy, husp, hupc, hucc⟩, -⟩ := rts_effect t
  have hback : t.readVal t.sp = s.pc := by rw [htsp, hstored.readVal hstack]
  have hsp : t.sp + 1 = s.sp := by rw [htsp, BitVec.sub_add_cancel]
  exact ⟨t, u, ht, hu, hua.trans hta, hux.trans htx, huy.trans hty, husp.trans hsp,
    hupc.trans hback, hucc.trans htcc⟩

end returns

/-! The obligations. -/

/-- Settles O21: CC takes the five low bits of the first byte pulled. -/
theorem returnFromInterruptPullsFiveBytes : Obligations.ReturnFromInterruptPullsFiveBytes := by
  refine ⟨codedAs_of_wf rfl rfl rfl rfl, fun s => ⟨returnFromException s, rfl, ?_, ?_,
    returnFromException_readsAll s, ?_⟩⟩
  · obtain ⟨hcc, ha, hx, hy, hpc, hsp⟩ := returnFromException_fields s
    exact ⟨ha, hx, hy, hsp, hpc, hcc⟩
  · obtain ⟨hmem, hout, -, -⟩ := returnFromException_frame s
    exact ⟨fun b => by rw [State.cell, State.cell, hmem], hout⟩
  · obtain ⟨-, -, hlines, hboard⟩ := returnFromException_frame s
    exact ⟨hlines, hboard⟩

/-- Settles O36: six cells of the opcode map, and the target is EA as it was before the push. -/
theorem subroutineCallPushesTheReturnAddress :
    Obligations.SubroutineCallPushesTheReturnAddress := by
  refine ⟨fun n => ⟨?_, ?_, ?_, ?_⟩, ?_, ?_, fun n s => ⟨rfl, jsr_effect (.ab n) s,
    jsr_effect (.nx n) s, jsr_effect (.ny n) s, jsr_effect .ax s, jsr_effect .ay s,
    bsr_effect n s⟩⟩
  all_goals exact codedAs_of_wf rfl rfl rfl rfl

/-- Settles O37: the base of the offset is the address after the branch, for the processor and for the assembler;
$FE is -2, the length of the branch. -/
theorem branchAlways : Obligations.BranchAlways := by
  refine ⟨fun n => codedAs_of_wf rfl rfl rfl rfl, bra_effect, fun here target s hs => ?_, fun s => ?_⟩
  · obtain ⟨t, ht, hpc⟩ := exec_bra_pc (operandByte .pc here target) s
    rw [hs, add_operandByte_pc] at hpc
    exact ⟨t, ht, by rw [hpc, BitVec.toNat_ofInt]; omega⟩
  · obtain ⟨t, ht, hpc⟩ := exec_bra_pc 0xFE (s.setPC (s.pc + 2))
    exact ⟨t, ht, by rw [hpc, State.setPC_pc]; bv_omega⟩

/-- Settles O41: each call pushes the return address, and RTS undoes the push. -/
theorem returnComesBackFromTheCall : Obligations.ReturnComesBackFromTheCall := fun s hstack m n =>
  ⟨rts_returns_after_push (jsr_effect m s) hstack, rts_returns_after_push (bsr_effect n s) hstack⟩

/-- Settles O35: five cells of the opcode map, and EA of each mode is its sum. -/
theorem jumpGoesToTheEffectiveAddress : Obligations.JumpGoesToTheEffectiveAddress := by
  refine ⟨fun n => ⟨?_, ?_, ?_⟩, ?_, ?_, fun n s => ⟨rfl, jmp_effect (.ab n) s,
    jmp_effect (.nx n) s, jmp_effect (.ny n) s, jmp_effect .ax s, jmp_effect .ay s⟩⟩
  all_goals exact codedAs_of_wf rfl rfl rfl rfl

/-- Settles O38: rows 2 to 9 of column 2; the even opcode of each pair tests the flag, the odd one its negation
(R135). -/
theorem branchOnOneFlag : Obligations.BranchOnOneFlag := by
  refine ⟨by decide, by decide, fun n => ⟨?_, ?_, ?_, ?_, ?_, ?_, ?_, ?_⟩, fun n s =>
    ⟨branchEffect_of_branchIf rfl Iff.rfl, branchEffect_of_branchIf rfl (Bool.not_eq_true' _).to_iff,
      branchEffect_of_branchIf rfl Iff.rfl, branchEffect_of_branchIf rfl (Bool.not_eq_true' _).to_iff,
      branchEffect_of_branchIf rfl Iff.rfl, branchEffect_of_branchIf rfl (Bool.not_eq_true' _).to_iff,
      branchEffect_of_branchIf rfl Iff.rfl, branchEffect_of_branchIf rfl (Bool.not_eq_true' _).to_iff⟩⟩
  all_goals exact codedAs_of_wf rfl rfl rfl rfl

/-- Settles O39: rows A to F of column 2, and the condition of each branch. -/
theorem branchOnSeveralFlags : Obligations.BranchOnSeveralFlags := by
  refine ⟨fun n => ⟨?_, ?_, ?_, ?_, ?_, ?_⟩, fun n s =>
    ⟨branchEffect_of_branchIf rfl (condHI_iff s.cc), branchEffect_of_branchIf rfl (condLS_iff s.cc),
      branchEffect_of_branchIf rfl (condGT_iff s.cc), branchEffect_of_branchIf rfl (condGE_iff s.cc),
      branchEffect_of_branchIf rfl (condLE_iff s.cc),
      branchEffect_of_branchIf rfl (condLT_iff s.cc)⟩⟩
  all_goals exact codedAs_of_wf rfl rfl rfl rfl

/-- Settles O40: one cell of the opcode map, and the pull with PC as the register. -/
theorem returnFromSubroutinePullsPC : Obligations.ReturnFromSubroutinePullsPC :=
  ⟨codedAs_of_wf rfl rfl rfl rfl, rts_effect⟩

end Sys2Proof.Machine

/-! The integer arithmetic instructions (43_arithmetic.md R155 to R166): what each computation of Machine/Flags.lean
gives in terms of byte arithmetic, and the effect of each shape of Machine/Operands.lean for whatever is computed.  With
them O42 to O46. -/

namespace Sys2Proof.Machine

/-! The shapes that compute, in terms of the result and the flags computed. -/

section shapes

variable {i : Instr} {s : State} {r : Byte} {cc : CC}

theorem sourceEffect_of_computeIntoA {f : Byte → Byte → CC → Computed} {o : Operand}
    (ho : o.isBinary = true) (he : exec i s = .next (computeIntoA f o s))
    (hf : f s.a (operandValue o s) s.cc = ⟨r, cc⟩) : sourceEffect i o s r s.x s.y s.sp cc := by
  obtain ⟨hx, hy⟩ := operandXY_of_isBinary ho s
  rw [computeIntoA_eq, hf] at he
  exact sourceEffect_of he (by simp [State.hasRegisters, hx, hy])
    (by simp) (by simp) rfl rfl (by simp) (by simp)

theorem inherentEffect_of_modifyA {f : Byte → CC → Computed} (he : exec i s = .next (modifyA f s))
    (hf : f s.a s.cc = ⟨r, cc⟩) : inherentEffect i s r s.x s.y s.sp s.pc cc := by
  rw [modifyA, hf] at he
  exact inherentEffect_of_sameOutside he
    ((s.setA_sameOutside r).trans (State.setCC_sameOutside _ cc)) (by simp [State.hasRegisters])

end shapes

/-! The computations.  A sum or a difference has its carry or borrow and its overflow from Laws/Flags.lean, whatever is
carried in. -/

section computations

variable {a b m r : Byte} {cc : CC} {cin : Bool}

theorem CC.ofSum_add8 (hr : r = a + b + (if cin then 1 else 0)) :
    cc.ofSum (add8 a b cin) =
      { cc with n := r.msb, z := r == 0, v := a.msb == b.msb && r.msb != a.msb,
                c := decide (256 ≤ a.toNat + b.toNat + if cin then 1 else 0) } := by
  rw [CC.ofSum, CC.setNZ, add8_v, add8_c, add8_r, hr]

theorem CC.ofSum_sub8 (hr : r = a - b - (if cin then 1 else 0)) :
    cc.ofSum (sub8 a b cin) =
      { cc with n := r.msb, z := r == 0, v := a.msb != b.msb && r.msb != a.msb,
                c := decide (a.toNat < b.toNat + if cin then 1 else 0) } := by
  rw [CC.ofSum, CC.setNZ, sub8_v, sub8_c, sub8_r, hr]

theorem computeAdd_eq (hr : r = a + b) :
    computeAdd a b cc = ⟨r, { cc with n := r.msb, z := r == 0, v := a.msb == b.msb && r.msb != a.msb,
                                      c := decide (256 ≤ a.toNat + b.toNat) }⟩ := by
  have hcarry : r = a + b + (if false then 1 else 0) := hr.trans (BitVec.add_zero _).symm
  rw [computeAdd, CC.ofSum_add8 hcarry, add8_r, ← hcarry]
  rfl

theorem computeAdc_eq (hr : r = a + b + (if cc.c then 1 else 0)) :
    computeAdc a b cc = ⟨r, { cc with
      n := r.msb, z := r == 0, v := a.msb == b.msb && r.msb != a.msb,
      c := decide (256 ≤ a.toNat + b.toNat + if cc.c then 1 else 0) }⟩ := by
  rw [computeAdc, CC.ofSum_add8 hr, add8_r, ← hr]

theorem computeSub_eq (hr : r = a - b) :
    computeSub a b cc = ⟨r, { cc with n := r.msb, z := r == 0, v := a.msb != b.msb && r.msb != a.msb,
                                      c := decide (a.toNat < b.toNat) }⟩ := by
  have hborrow : r = a - b - (if false then 1 else 0) := hr.trans (BitVec.sub_zero _).symm
  rw [computeSub, CC.ofSum_sub8 hborrow, sub8_r, ← hborrow]
  rfl

theorem computeSbc_eq (hr : r = a - b - (if cc.c then 1 else 0)) :
    computeSbc a b cc = ⟨r, { cc with
      n := r.msb, z := r == 0, v := a.msb != b.msb && r.msb != a.msb,
      c := decide (a.toNat < b.toNat + if cc.c then 1 else 0) }⟩ := by
  rw [computeSbc, CC.ofSum_sub8 hr, sub8_r, ← hr]

/-- Only $80 is negative and has a negative two's complement. -/
theorem neg_overflow (m : Byte) :
    ((0 : Byte).msb != m.msb && (-m).msb != (0 : Byte).msb) = (m == 0x80) := by
  rw [Bool.eq_iff_iff]
  simp only [byte_msb, Bool.and_eq_true, bne_iff_ne, ne_eq, decide_eq_decide, beq_iff_eq]
  bv_omega

/-- Subtracted from 0, every byte but 0 borrows (C12). -/
theorem neg_borrow (m : Byte) : decide ((0 : Byte).toNat < m.toNat) = (m != 0) := by
  rw [Bool.eq_iff_iff]
  simp only [decide_eq_true_eq, bne_iff_ne, ne_eq]
  bv_omega

theorem neg_beq_zero (m : Byte) : (-m == 0) = (m == 0) := by
  rw [Bool.eq_iff_iff, beq_iff_eq, beq_iff_eq, neg_eq_zero]

theorem add_one_beq_zero (m : Byte) : (m + 1 == 0) = (m == 0xFF) := by
  rw [Bool.eq_iff_iff, beq_iff_eq, beq_iff_eq]
  bv_omega

theorem sub_one_beq_zero (m : Byte) : (m - 1 == 0) = (m == 1) := by
  rw [Bool.eq_iff_iff, beq_iff_eq, beq_iff_eq, sub_eq_zero]

/-- NEG is the subtraction from 0. -/
theorem computeNeg_eq (hr : r = -m) :
    computeNeg m cc = ⟨r, { cc with n := r.msb, z := m == 0, v := m == 0x80, c := m != 0 }⟩ := by
  have hneg : -m = 0 - m := (BitVec.zero_sub m).symm
  have hsub : computeNeg m cc = computeSub 0 m cc := rfl
  rw [hsub, computeSub_eq (hr.trans hneg), hr, neg_overflow, neg_borrow, neg_beq_zero]

theorem computeDec_eq (m : Byte) (cc : CC) :
    computeDec m cc = ⟨m - 1, { cc with n := (m - 1).msb, z := m == 1, v := m == 0x80 }⟩ := by
  rw [computeDec, CC.setNZ, sub_one_beq_zero]

theorem computeInc_eq (m : Byte) (cc : CC) :
    computeInc m cc = ⟨m + 1, { cc with n := (m + 1).msb, z := m == 0xFF, v := m == 0x7F }⟩ := by
  rw [computeInc, CC.setNZ, add_one_beq_zero]

end computations

/-! The obligations. -/

/-- Settles O42: rows 6 and 5 of columns 9 to D, and the sum with nothing or the old C carried in. -/
theorem addToA : Obligations.AddToA := by
  refine ⟨codedSource_of_row (row := 6) fun _ h => codedAs_of_wf h rfl rfl rfl,
    codedSource_of_row (row := 5) fun _ h => codedAs_of_wf h rfl rfl rfl, ?_⟩
  rintro o s ho _ rfl
  exact ⟨fun _ hr => sourceEffect_of_computeIntoA ho rfl (computeAdd_eq hr),
    fun _ hr => sourceEffect_of_computeIntoA ho rfl (computeAdc_eq hr)⟩

/-- Settles O43: rows 4 and 3 of columns 9 to D, and the difference with nothing or the old C borrowed in. -/
theorem subtractFromA : Obligations.SubtractFromA := by
  refine ⟨codedSource_of_row (row := 4) fun _ h => codedAs_of_wf h rfl rfl rfl,
    codedSource_of_row (row := 3) fun _ h => codedAs_of_wf h rfl rfl rfl, ?_⟩
  rintro o s ho _ rfl
  exact ⟨fun _ hr => sourceEffect_of_computeIntoA ho rfl (computeSub_eq hr),
    fun _ hr => sourceEffect_of_computeIntoA ho rfl (computeSbc_eq hr)⟩

/-- Settles O44: row 5 of columns 0 and 3 to 8; CLR has the shape of a store, which reads nothing. -/
theorem clearAOrMemory : Obligations.ClearAOrMemory :=
  ⟨codedAs_of_wf rfl rfl rfl rfl,
    codedMem_of_row (row := 5) fun _ h => codedAs_of_wf h rfl rfl rfl,
    fun _ => ⟨inherentEffect_of_modifyA rfl rfl, fun _ _ => storeEffect_of_writeMem rfl⟩⟩

/-- Settles O45: row 6 of columns 0 and 3 to 8, and the negation of A or of the byte at EA. -/
theorem negateAOrMemory : Obligations.NegateAOrMemory := by
  refine ⟨codedAs_of_wf rfl rfl rfl rfl,
    codedMem_of_row (row := 6) fun _ h => codedAs_of_wf h rfl rfl rfl,
    fun s => ⟨fun _ hr => inherentEffect_of_modifyA rfl (computeNeg_eq hr), ?_⟩⟩
  rintro m _ r - rfl hr
  exact modifyEffect_of_modifyMem rfl (computeNeg_eq hr)

/-- Settles O46: rows 8 and 7 of columns 0 and 3 to 8, and one more or one less than A or the byte at EA. -/
theorem incrementAndDecrement : Obligations.IncrementAndDecrement := by
  refine ⟨codedAs_of_wf rfl rfl rfl rfl,
    codedMem_of_row (row := 8) fun _ h => codedAs_of_wf h rfl rfl rfl,
    codedAs_of_wf rfl rfl rfl rfl,
    codedMem_of_row (row := 7) fun _ h => codedAs_of_wf h rfl rfl rfl,
    fun s => ⟨inherentEffect_of_modifyA rfl (computeDec_eq s.a s.cc),
      inherentEffect_of_modifyA rfl (computeInc_eq s.a s.cc), ?_⟩⟩
  rintro m _ - rfl
  exact ⟨modifyEffect_of_modifyMem rfl (computeDec_eq _ s.cc),
    modifyEffect_of_modifyMem rfl (computeInc_eq _ s.cc)⟩

end Sys2Proof.Machine

/-! The compare and test instructions (44_test.md R175 to R182): each reads an operand and writes flags only, and the
flags of a comparison say how the two values compare.  With them O47 to O49. -/

namespace Sys2Proof.Machine

/-! The effects: the operand is read and CC is written, in a mode that moves no index register. -/

section flagsOnly

variable {i : Instr} {o : Operand} {s : State} {reg : Byte} {cc : CC}

theorem sourceEffect_of_readOperand_setCC (hxy : operandX o s = s.x ∧ operandY o s = s.y)
    (he : exec i s = .next ((readOperand o s).2.setCC cc)) :
    sourceEffect i o s s.a s.x s.y s.sp cc := by
  obtain ⟨hx, hy⟩ := hxy
  exact sourceEffect_of he (by simp [State.hasRegisters, hx, hy])
    (by simp) (by simp) rfl rfl (by simp) (by simp)

/-- The register compared is the one of the state before the read, since the read leaves it. -/
theorem sourceEffect_of_compareWith {f : Byte → Byte → CC → Computed} {getR : State → Byte}
    (ho : o.isBinary = true) (he : exec i s = .next (compareWith f getR o s))
    (hreg : getR (readOperand o s).2 = getR s) :
    sourceEffect i o s s.a s.x s.y s.sp (f (getR s) (operandValue o s) s.cc).cc := by
  rw [compareWith_eq, hreg] at he
  exact sourceEffect_of_readOperand_setCC (operandXY_of_isBinary ho s) he

/-- The four comparisons (R176 to R179), each with the register it compares. -/
def comparisons (o : Operand) (s : State) : List (Instr × Byte) :=
  [(.cmpa o, s.a), (.cmpx o, s.x), (.cmpy o, s.y), (.cmpsp o, s.sp)]

theorem mem_comparisons : (i, reg) ∈ comparisons o s ↔
    (i = .cmpa o ∧ reg = s.a) ∨ (i = .cmpx o ∧ reg = s.x) ∨ (i = .cmpy o ∧ reg = s.y) ∨
      (i = .cmpsp o ∧ reg = s.sp) := by
  simp [comparisons]

theorem comparison_effect (h : (i, reg) ∈ comparisons o s) (hwf : i.wf = true) :
    sourceEffect i o s s.a s.x s.y s.sp (computeSub reg (operandValue o s) s.cc).cc := by
  obtain ⟨rfl, rfl⟩ | ⟨rfl, rfl⟩ | ⟨rfl, rfl⟩ | ⟨rfl, rfl⟩ := mem_comparisons.1 h
  case inl => exact sourceEffect_of_compareWith hwf rfl (readOperand_a o s)
  case inr.inl =>
    have ho := Operand.isBinary_of_isCmpXY hwf
    exact sourceEffect_of_compareWith ho rfl
      ((readOperand_x o s).trans (operandXY_of_isBinary ho s).left)
  case inr.inr.inl =>
    have ho := Operand.isBinary_of_isCmpXY hwf
    exact sourceEffect_of_compareWith ho rfl
      ((readOperand_y o s).trans (operandXY_of_isBinary ho s).right)
  case inr.inr.inr =>
    exact sourceEffect_of_compareWith (Operand.isBinary_of_isCmpSP hwf) rfl (readOperand_sp o s)

end flagsOnly

/-! What the flags of a difference say (R175), and what the branches then read from them. -/

section comparing

variable {cc : CC} {r v : Byte} {t : State}

/-- The flags say how `r` and `v` compare: Z for equality, C for the unsigned order, N and V together for the
signed one. -/
structure CC.Compares (cc : CC) (r v : Byte) : Prop where
  z_iff : cc.z = true ↔ r = v
  c_iff : cc.c = true ↔ r.toNat < v.toNat
  nv_iff : cc.n = cc.v ↔ v.toInt ≤ r.toInt

/-- The sign of a difference, corrected by the overflow, is the sign of the exact difference. -/
theorem sub_msb_eq_overflow_iff (r v : Byte) :
    (r - v).msb = (r.msb != v.msb && (r - v).msb != r.msb) ↔ v.toInt ≤ r.toInt := by
  have hr := r.isLt
  have hv := v.isLt
  have hsub := BitVec.toNat_sub r v
  rw [Bool.eq_iff_iff]
  simp only [byte_msb, byte_toInt, Bool.and_eq_true, bne_iff_ne, ne_eq, decide_eq_decide,
    decide_eq_true_eq]
  split <;> split <;> omega

theorem computeSub_compares (r v : Byte) (cc : CC) : (computeSub r v cc).cc.Compares r v := by
  rw [computeSub_eq rfl]
  exact ⟨beq_iff_eq.trans sub_eq_zero, decide_eq_true_iff, sub_msb_eq_overflow_iff r v⟩

namespace CC.Compares

variable (h : cc.Compares r v)
include h

theorem condNE_iff : condNE cc = true ↔ r ≠ v := by
  rw [condNE, Bool.not_eq_true', ← Bool.not_eq_true, h.z_iff]

theorem condCC_iff : condCC cc = true ↔ v.toNat ≤ r.toNat := by
  rw [condCC, Bool.not_eq_true', ← Bool.not_eq_true, h.c_iff, not_lt]

theorem condHI_iff : condHI cc = true ↔ v.toNat < r.toNat := by
  rw [Machine.condHI_iff, ← Bool.not_eq_true, ← Bool.not_eq_true, h.c_iff, h.z_iff,
    ← BitVec.toNat_inj]
  omega

theorem condLS_iff : condLS cc = true ↔ r.toNat ≤ v.toNat := by
  rw [Machine.condLS_iff, h.c_iff, h.z_iff, ← BitVec.toNat_inj, Nat.le_iff_lt_or_eq]

theorem condGE_iff : condGE cc = true ↔ v.toInt ≤ r.toInt :=
  (Machine.condGE_iff cc).trans h.nv_iff

theorem condLT_iff : condLT cc = true ↔ r.toInt < v.toInt := by
  rw [Machine.condLT_iff, ne_eq, h.nv_iff, not_le]

theorem condGT_iff : condGT cc = true ↔ v.toInt < r.toInt := by
  rw [Machine.condGT_iff, ← Bool.not_eq_true, h.nv_iff, h.z_iff, ← BitVec.toInt_inj]
  omega

theorem condLE_iff : condLE cc = true ↔ r.toInt ≤ v.toInt := by
  rw [Machine.condLE_iff, ne_eq, h.nv_iff, h.z_iff, ← BitVec.toInt_inj]
  omega

end CC.Compares

theorem branchesCompare_of_compares (h : t.cc.Compares r v) : branchesCompare t r v := fun _ =>
  ⟨branchEffect_of_branchIf rfl h.z_iff, branchEffect_of_branchIf rfl h.condNE_iff,
    branchEffect_of_branchIf rfl h.condHI_iff, branchEffect_of_branchIf rfl h.condCC_iff,
    branchEffect_of_branchIf rfl h.condLS_iff, branchEffect_of_branchIf rfl h.c_iff,
    branchEffect_of_branchIf rfl h.condGT_iff, branchEffect_of_branchIf rfl h.condGE_iff,
    branchEffect_of_branchIf rfl h.condLE_iff, branchEffect_of_branchIf rfl h.condLT_iff⟩

end comparing

/-! The obligations. -/

/-- Settles O47: row 7 of columns 9 to D and eight cells of rows C to E, and the flags of the difference. -/
theorem compareSetsTheFlagsOfTheDifference : Obligations.CompareSetsTheFlagsOfTheDifference := by
  refine ⟨codedSource_of_row (row := 7) fun _ h => codedAs_of_wf h rfl rfl rfl, fun d => ?_, ?_⟩
  · refine ⟨?_, ?_, ?_, ?_, ?_, ?_, ?_, ?_⟩ <;> exact codedAs_of_wf rfl rfl rfl rfl
  · rintro o s i reg h hwf _ r rfl hr
    have heffect := comparison_effect h hwf
    rwa [computeSub_eq hr] at heffect

/-- Settles O48: the flags that any of the four comparisons leaves say how the register and the operand compare. -/
theorem branchesAfterCompareAreComparisons : Obligations.BranchesAfterCompareAreComparisons := by
  intro o s i reg h hwf
  obtain ⟨t, ht, ⟨-, -, -, -, -, hcc⟩, -⟩ := comparison_effect h hwf
  refine ⟨t, ht, branchesCompare_of_compares ?_⟩
  rw [hcc]
  exact computeSub_compares reg (operandValue o s) s.cc

/-- Settles O49: row 8 of columns 9 to D and row 9 of columns 0 and 3 to 8; BITA has the shape of a comparison, and
TST reads its operand and writes CC. -/
theorem bitTestAndTest : Obligations.BitTestAndTest := by
  refine ⟨codedSource_of_row (row := 8) fun _ h => codedAs_of_wf h rfl rfl rfl,
    codedAs_of_wf rfl rfl rfl rfl,
    codedMem_of_row (row := 9) fun _ h => codedAs_of_wf h rfl rfl rfl, fun s => ⟨?bita, ?tsta, ?tst⟩⟩
  case bita =>
    rintro o _ ho rfl
    exact sourceEffect_of_compareWith (f := computeAnd) ho rfl (readOperand_a o s)
  case tsta => exact inherentEffect_of_setCC rfl
  case tst =>
    rintro m _ hm rfl
    refine sourceEffect_of_readOperand_setCC (indexXY_of_isPlain hm s) ?_
    rw [← readMem_val]
    rfl

end Sys2Proof.Machine

/-! The logic instructions (45_logic.md R185 to R191): what each computation of Machine/Flags.lean gives bit by bit,
and the CC byte under a mask.  With them O50 to O52. -/

namespace Sys2Proof.Machine

/-! The computations.  A byte is known by its bits, and a one's complement by its value. -/

section logicComputations

variable {a b m r : Byte} {cc : CC}

theorem computeAnd_eq (hr : ∀ k, r.getLsbD k = (a.getLsbD k && b.getLsbD k)) :
    computeAnd a b cc = ⟨r, { cc with n := r.msb, z := r == 0, v := false }⟩ := by
  obtain rfl : r = a &&& b :=
    BitVec.eq_of_getLsbD_eq fun k _ => (hr k).trans BitVec.getLsbD_and.symm
  rfl

theorem computeOr_eq (hr : ∀ k, r.getLsbD k = (a.getLsbD k || b.getLsbD k)) :
    computeOr a b cc = ⟨r, { cc with n := r.msb, z := r == 0, v := false }⟩ := by
  obtain rfl : r = a ||| b :=
    BitVec.eq_of_getLsbD_eq fun k _ => (hr k).trans BitVec.getLsbD_or.symm
  rfl

theorem computeEor_eq (hr : ∀ k, r.getLsbD k = (a.getLsbD k ^^ b.getLsbD k)) :
    computeEor a b cc = ⟨r, { cc with n := r.msb, z := r == 0, v := false }⟩ := by
  obtain rfl : r = a ^^^ b :=
    BitVec.eq_of_getLsbD_eq fun k _ => (hr k).trans BitVec.getLsbD_xor.symm
  rfl

/-- COM is the exclusive or with $FF, which inverts every bit. -/
theorem computeCom_eq (hr : r.toNat = 255 - m.toNat) :
    computeCom m cc = ⟨r, { cc with n := r.msb, z := r == 0, v := false }⟩ := by
  have hnot : r = ~~~m := BitVec.eq_of_toNat_eq (by rw [hr, BitVec.toNat_not])
  obtain rfl : r = m ^^^ 0xFF := hnot.trans BitVec.xor_allOnes.symm
  rfl

end logicComputations

/-! The flags under a mask: each flag stands at its own bit of CC (R31), and bits 7 to 5 of the mask meet no flag. -/

section maskedFlags

theorem CC.ofByte_and (b n : Byte) : CC.ofByte (b &&& n) =
    { i := (CC.ofByte b).i && n.getLsbD 4, n := (CC.ofByte b).n && n.getLsbD 3,
      z := (CC.ofByte b).z && n.getLsbD 2, v := (CC.ofByte b).v && n.getLsbD 1,
      c := (CC.ofByte b).c && n.getLsbD 0 } := by
  simp only [CC.ofByte, BitVec.getLsbD_and]

theorem CC.ofByte_or (b n : Byte) : CC.ofByte (b ||| n) =
    { i := (CC.ofByte b).i || n.getLsbD 4, n := (CC.ofByte b).n || n.getLsbD 3,
      z := (CC.ofByte b).z || n.getLsbD 2, v := (CC.ofByte b).v || n.getLsbD 1,
      c := (CC.ofByte b).c || n.getLsbD 0 } := by
  simp only [CC.ofByte, BitVec.getLsbD_or]

theorem exec_andcc (n : Byte) (s : State) : exec (.andcc n) s = .next (s.setCC
    { i := s.cc.i && n.getLsbD 4, n := s.cc.n && n.getLsbD 3, z := s.cc.z && n.getLsbD 2,
      v := s.cc.v && n.getLsbD 1, c := s.cc.c && n.getLsbD 0 }) := by
  have hexec : exec (.andcc n) s = .next (s.setCC (CC.ofByte (s.cc.toByte &&& n))) := rfl
  rw [hexec, CC.ofByte_and, CC.ofByte_toByte]

theorem exec_orcc (n : Byte) (s : State) : exec (.orcc n) s = .next (s.setCC
    { i := s.cc.i || n.getLsbD 4, n := s.cc.n || n.getLsbD 3, z := s.cc.z || n.getLsbD 2,
      v := s.cc.v || n.getLsbD 1, c := s.cc.c || n.getLsbD 0 }) := by
  have hexec : exec (.orcc n) s = .next (s.setCC (CC.ofByte (s.cc.toByte ||| n))) := rfl
  rw [hexec, CC.ofByte_or, CC.ofByte_toByte]

end maskedFlags

/-! The obligations. -/

/-- Settles O50: rows 9, A and B of columns 9 to D, and the conjunction, disjunction and exclusive or of bits. -/
theorem logicOnA : Obligations.LogicOnA := by
  refine ⟨codedSource_of_row (row := 9) fun _ h => codedAs_of_wf h rfl rfl rfl,
    codedSource_of_row (row := 10) fun _ h => codedAs_of_wf h rfl rfl rfl,
    codedSource_of_row (row := 11) fun _ h => codedAs_of_wf h rfl rfl rfl, ?_⟩
  rintro o s r ho _ rfl
  exact ⟨fun hr => sourceEffect_of_computeIntoA ho rfl (computeAnd_eq hr),
    fun hr => sourceEffect_of_computeIntoA ho rfl (computeOr_eq hr),
    fun hr => sourceEffect_of_computeIntoA ho rfl (computeEor_eq hr)⟩

/-- Settles O51: two cells of column 0, and CC as a byte under the mask. -/
theorem maskTheFlags : Obligations.MaskTheFlags :=
  ⟨fun _ => ⟨codedAs_of_wf rfl rfl rfl rfl, codedAs_of_wf rfl rfl rfl rfl⟩,
    fun n s => ⟨inherentEffect_of_setCC (exec_andcc n s), inherentEffect_of_setCC (exec_orcc n s)⟩⟩

/-- Settles O52: row A of columns 0 and 3 to 8, and the complement of A or of the byte at EA. -/
theorem complementAOrMemory : Obligations.ComplementAOrMemory :=
  ⟨codedAs_of_wf rfl rfl rfl rfl,
    codedMem_of_row (row := 10) fun _ h => codedAs_of_wf h rfl rfl rfl,
    fun _ => ⟨fun _ hr => inherentEffect_of_modifyA rfl (computeCom_eq hr),
      fun _ _ _ hr => modifyEffect_of_modifyMem rfl (computeCom_eq hr)⟩⟩

end Sys2Proof.Machine

/-! The shift and rotate instructions (46_shift_rotate.md R195 to R206): a shift by one place bit by bit and as
arithmetic, the rotation of C and A together, and shifts of two cells as one word.  With them O53 to O56. -/

namespace Sys2Proof.Machine

/-! One place to the left or to the right (R195), as bits and as numbers. -/

section onePlace

variable (m : Byte) (cin : Bool)

theorem byte_getLsbD_zero : m.getLsbD 0 = decide (m.toNat % 2 = 1) :=
  Nat.testBit_zero m.toNat

theorem shiftLeft_getLsbD_zero : (shiftLeft m cin).getLsbD 0 = cin := by
  cases cin <;> simp [shiftLeft]

theorem shiftLeft_getLsbD_succ {k : Nat} (hk : k < 7) :
    (shiftLeft m cin).getLsbD (k + 1) = m.getLsbD k := by
  have hcin : (if cin then 0x01 else 0 : Byte).getLsbD (k + 1) = false := by
    cases cin <;> simp
  have hlt : k + 1 < 8 := Nat.succ_lt_succ hk
  rw [shiftLeft, BitVec.getLsbD_or, hcin, Bool.or_false, BitVec.getLsbD_shiftLeft]
  simp [hlt]

theorem shiftRight_getLsbD_seven : (shiftRight m cin).getLsbD 7 = cin := by
  cases cin <;> simp [shiftRight]

theorem shiftRight_getLsbD {k : Nat} (hk : k < 7) :
    (shiftRight m cin).getLsbD k = m.getLsbD (k + 1) := by
  have hcin : (if cin then 0x80 else 0 : Byte).getLsbD k = false := by
    cases cin <;> interval_cases k <;> rfl
  rw [shiftRight, BitVec.getLsbD_or, hcin, Bool.or_false, BitVec.getLsbD_ushiftRight, Nat.add_comm]

theorem shiftLeft_msb : (shiftLeft m cin).msb = m.getLsbD 6 :=
  shiftLeft_getLsbD_succ m cin (by decide)

theorem shiftRight_msb : (shiftRight m cin).msb = cin :=
  shiftRight_getLsbD_seven m cin

/-- The bit shifted in lands on an empty place, so it is added. -/
theorem shiftLeft_toNat :
    (shiftLeft m cin).toNat = 2 * m.toNat % 256 + (if cin then 1 else 0) := by
  have hdouble : 2 * m.toNat % 256 = 2 ^ 1 * (m.toNat % 128) := Nat.mul_mod_mul_left 2 m.toNat 128
  have hshift : (m <<< 1).toNat = 2 * m.toNat % 256 := by
    rw [BitVec.toNat_shiftLeft, Nat.shiftLeft_eq, Nat.mul_comm]
  have hcin : (if cin then 0x01 else 0 : Byte).toNat = if cin then 1 else 0 := by
    cases cin <;> rfl
  have hlt : (if cin then 1 else 0) < 2 ^ 1 := by cases cin <;> decide
  rw [shiftLeft, BitVec.toNat_or, hshift, hcin, hdouble, Nat.two_pow_add_eq_or_of_lt hlt]

/-- The bit shifted out is what doubling carries out of the byte. -/
theorem shiftLeft_toNat_add_msb :
    (shiftLeft m cin).toNat + 256 * m.msb.toNat = 2 * m.toNat + cin.toNat := by
  have hm := m.isLt
  have hcin : (if cin then 1 else 0) = cin.toNat := by cases cin <;> rfl
  have hmsb : m.msb.toNat = 2 * m.toNat / 256 := by
    rw [byte_msb]
    rcases Nat.lt_or_ge m.toNat 128 with hsign | hsign
    · rw [decide_eq_false (Nat.not_le.2 hsign), Bool.toNat_false]
      omega
    · rw [decide_eq_true hsign, Bool.toNat_true]
      omega
  rw [shiftLeft_toNat, hcin, hmsb]
  omega

theorem shiftRight_toNat :
    (shiftRight m cin).toNat = m.toNat / 2 + (if cin then 128 else 0) := by
  have hlt : m.toNat / 2 < 2 ^ 7 := Nat.div_lt_of_lt_mul m.isLt
  have hcin : (if cin then 0x80 else 0 : Byte).toNat = 2 ^ 7 * cin.toNat := by cases cin <;> rfl
  have hadd : (if cin then 128 else 0) = 2 ^ 7 * cin.toNat := by cases cin <;> rfl
  rw [shiftRight, BitVec.toNat_or, BitVec.toNat_ushiftRight, hcin, hadd, Nat.shiftRight_eq_div_pow,
    Nat.pow_one, Nat.or_comm, ← Nat.two_pow_add_eq_or_of_lt hlt, Nat.add_comm]

end onePlace

/-! The computations.  The result is given as a number, the flags by bits of the operand. -/

section shiftComputations

variable {m r : Byte} {cc : CC} {cin : Bool}

theorem computeLeft_eq (hr : r.toNat = 2 * m.toNat % 256 + (if cin then 1 else 0)) :
    computeLeft cin m cc = ⟨r, { cc with
      n := m.getLsbD 6, z := r == 0, v := m.getLsbD 7 ^^ m.getLsbD 6, c := m.getLsbD 7 }⟩ := by
  obtain rfl : r = shiftLeft m cin :=
    BitVec.eq_of_toNat_eq (hr.trans (shiftLeft_toNat m cin).symm)
  rw [computeLeft, CC.setNZ, shiftLeft_msb, Bool.bne_eq_xor]
  rfl

theorem computeRight_eq (hr : r.toNat = m.toNat / 2 + (if cin then 128 else 0)) :
    computeRight cin m cc = ⟨r, { cc with
      n := cin, z := r == 0, v := m.getLsbD 7 ^^ cin, c := m.getLsbD 0 }⟩ := by
  obtain rfl : r = shiftRight m cin :=
    BitVec.eq_of_toNat_eq (hr.trans (shiftRight_toNat m cin).symm)
  rw [computeRight, CC.setNZ, shiftRight_msb, Bool.bne_eq_xor]
  rfl

theorem computeLsl_eq (hr : r.toNat = 2 * m.toNat % 256) :
    computeLsl m cc = ⟨r, { cc with
      n := m.getLsbD 6, z := r == 0, v := m.getLsbD 7 ^^ m.getLsbD 6, c := m.getLsbD 7 }⟩ :=
  computeLeft_eq (cin := false) hr

theorem computeRol_eq (hr : r.toNat = 2 * m.toNat % 256 + (if cc.c then 1 else 0)) :
    computeRol m cc = ⟨r, { cc with
      n := m.getLsbD 6, z := r == 0, v := m.getLsbD 7 ^^ m.getLsbD 6, c := m.getLsbD 7 }⟩ :=
  computeLeft_eq hr

/-- A 0 shifted in leaves no sign, so the sign changes exactly where there was one (D23). -/
theorem computeLsr_eq (hr : r.toNat = m.toNat / 2) :
    computeLsr m cc = ⟨r, { cc with
      n := false, z := r == 0, v := m.getLsbD 7, c := m.getLsbD 0 }⟩ := by
  rw [computeLsr, computeRight_eq (cin := false) hr, Bool.xor_false]

theorem computeRor_eq (hr : r.toNat = m.toNat / 2 + (if cc.c then 128 else 0)) :
    computeRor m cc = ⟨r, { cc with
      n := cc.c, z := r == 0, v := m.getLsbD 7 ^^ cc.c, c := m.getLsbD 0 }⟩ :=
  computeRight_eq hr

/-- Half of a signed byte, rounded down, is the byte one place to the right under its own sign. -/
theorem shiftRight_msb_toInt (m : Byte) : (shiftRight m m.msb).toInt = m.toInt / 2 := by
  have hm := m.isLt
  have hval := shiftRight_toNat m m.msb
  simp only [byte_msb, decide_eq_true_eq] at hval
  rw [byte_toInt, byte_toInt, byte_msb, hval]
  split_ifs <;> omega

theorem computeAsr_eq (hr : r.toInt = m.toInt / 2) :
    computeAsr m cc = ⟨r, { cc with
      n := m.msb, z := r == 0, v := false, c := m.getLsbD 0 }⟩ := by
  obtain rfl : r = shiftRight m m.msb :=
    BitVec.eq_of_toInt_eq (hr.trans (shiftRight_msb_toInt m).symm)
  rw [computeAsr, CC.setNZ, shiftRight_msb]

end shiftComputations

/-! The rotation through C: C and the bits of A, highest first, are a ring of nine, which each instruction turns by
one place (R202, R204). -/

section ring

variable {i : Instr} {s t : State} {k : Nat}

/-- C and the bits of A, highest first. -/
def State.ring (s : State) : List Bool :=
  [s.cc.c, s.a.getLsbD 7, s.a.getLsbD 6, s.a.getLsbD 5, s.a.getLsbD 4, s.a.getLsbD 3,
    s.a.getLsbD 2, s.a.getLsbD 1, s.a.getLsbD 0]

theorem State.ring_eq_iff : t.ring = s.ring ↔ t.a = s.a ∧ t.cc.c = s.cc.c := by
  refine ⟨fun h => ?_, fun ⟨ha, hc⟩ => by rw [ring, ring, ha, hc]⟩
  simp only [ring, List.cons.injEq, and_true] at h
  obtain ⟨hc, h7, h6, h5, h4, h3, h2, h1, h0⟩ := h
  refine ⟨BitVec.eq_of_getLsbD_eq fun k hk => ?_, hc⟩
  interval_cases k <;> assumption

/-- The instruction turns the ring by `k` places towards C. -/
def TurnsRing (i : Instr) (k : Nat) : Prop :=
  ∀ s, ∃ t, exec i s = .next t ∧ t.ring = s.ring.rotate k

/-- C enters bit 0, and bit 7 becomes C. -/
theorem rola_turnsRing : TurnsRing .rola 1 := by
  refine fun s => ⟨modifyA computeRol s, rfl, ?_⟩
  have ha : (modifyA computeRol s).a = shiftLeft s.a s.cc.c := rfl
  have hc : (modifyA computeRol s).cc.c = s.a.getLsbD 7 := rfl
  simp only [State.ring, ha, hc, shiftLeft_getLsbD_zero, shiftLeft_getLsbD_succ, Nat.reduceLT]
  rfl

/-- C enters bit 7, and bit 0 becomes C: one place away from C, which is eight towards it. -/
theorem rora_turnsRing : TurnsRing .rora 8 := by
  refine fun s => ⟨modifyA computeRor s, rfl, ?_⟩
  have ha : (modifyA computeRor s).a = shiftRight s.a s.cc.c := rfl
  have hc : (modifyA computeRor s).cc.c = s.a.getLsbD 0 := rfl
  simp only [State.ring, ha, hc, shiftRight_getLsbD_seven, shiftRight_getLsbD, Nat.reduceLT]
  rfl

theorem TurnsRing.replicate (h : TurnsRing i k) (n : Nat) (s : State) :
    ∃ t, execAll (List.replicate n i) s = .next t ∧ t.ring = s.ring.rotate (n * k) := by
  induction n generalizing s with
  | zero => exact ⟨s, rfl, by simp⟩
  | succ n ih =>
    obtain ⟨t, ht, hring⟩ := h s
    obtain ⟨u, hu, hring'⟩ := ih t
    refine ⟨u, by simp only [List.replicate_succ, execAll, ht, hu], ?_⟩
    rw [hring', hring, List.rotate_rotate, Nat.succ_mul, Nat.add_comm]

/-- Nine turns of a ring of nine are full turns. -/
theorem TurnsRing.nine_restore (h : TurnsRing i k) (s : State) :
    ∃ t, execAll (List.replicate 9 i) s = .next t ∧ t.a = s.a ∧ t.cc.c = s.cc.c := by
  obtain ⟨t, ht, hring⟩ := h.replicate 9 s
  exact ⟨t, ht, State.ring_eq_iff.1 (hring.trans (List.rotate_length_mul s.ring k))⟩

end ring

/-! Two cells as one word (R206): the bit that leaves the first byte is the C that enters the second. -/

section words

variable {i j : Instr} {f g : Byte → CC → Computed} {s t : State} {first second high low : Byte}

theorem effectiveAddress_ab (n : Byte) (s : State) : effectiveAddress (.ab n) s = n := rfl

theorem State.ordinary.readVal (h : s.ordinary first) : s.readVal first = s.cell first := by
  obtain ⟨hfb, hfc, -⟩ := h
  exact s.readVal_memory (portAt_eq_none.2 ⟨hfb, hfc⟩)

theorem modifyMem_ab_cell (f : Byte → CC → Computed) (h : s.ordinary first) (b : Byte) :
    (modifyMem f (.ab first) s).cell b =
      if b = first then (f (s.cell first) s.cc).val else s.cell b := by
  rw [modifyMem_cell, effectiveAddress_ab, State.write_cell_ordinary, h.readVal]
  exact if_congr (and_iff_left h) rfl rfl

theorem modifyMem_ab_cc (f : Byte → CC → Computed) (h : s.ordinary first) :
    (modifyMem f (.ab first) s).cc = (f (s.cell first) s.cc).cc := by
  rw [modifyMem_cc, effectiveAddress_ab, h.readVal]

/-- Two read-modify-writes in a row at different cells. -/
theorem execAll_modifyMem_pair (hi : ∀ s, exec i s = .next (modifyMem f (.ab first) s))
    (hj : ∀ s, exec j s = .next (modifyMem g (.ab second) s))
    (hfirst : s.ordinary first) (hsecond : s.ordinary second) (hne : first ≠ second) :
    ∃ t, execAll [i, j] s = .next t ∧ t.cell first = (f (s.cell first) s.cc).val ∧
      (⟨t.cell second, t.cc⟩ : Computed) = g (s.cell second) (f (s.cell first) s.cc).cc := by
  have hsecond' : (modifyMem f (.ab first) s).ordinary second := by
    rwa [State.ordinary, modifyMem_board]
  refine ⟨modifyMem g (.ab second) (modifyMem f (.ab first) s), ?_, ?_, ?_⟩
  · simp only [execAll, hi, hj]
  · rw [modifyMem_ab_cell g hsecond', if_neg hne, modifyMem_ab_cell f hfirst, if_pos rfl]
  · rw [modifyMem_ab_cell g hsecond', if_pos rfl, modifyMem_ab_cc g hsecond',
      modifyMem_ab_cell f hfirst, if_neg hne.symm, modifyMem_ab_cc f hfirst]

theorem word_shiftLeft (hlow : t.cell low = shiftLeft (s.cell low) false)
    (hhigh : t.cell high = shiftLeft (s.cell high) (s.cell low).msb) :
    t.word high low = 2 * s.word high low % 65536 := by
  have hltLow := (t.cell low).isLt
  have hltHigh := (t.cell high).isLt
  have hcarryLow := shiftLeft_toNat_add_msb (s.cell low) false
  have hcarryHigh := shiftLeft_toNat_add_msb (s.cell high) (s.cell low).msb
  rw [← hlow, Bool.toNat_false] at hcarryLow
  rw [← hhigh] at hcarryHigh
  rw [State.word, State.word]
  omega

theorem word_msb (s : State) (high low : Byte) :
    (s.cell high).msb = decide (32768 ≤ s.word high low) := by
  have hlt := (s.cell low).isLt
  rw [byte_msb, State.word, decide_eq_decide]
  omega

theorem word_getLsbD_zero (s : State) (high low : Byte) :
    (s.cell low).getLsbD 0 = decide (s.word high low % 2 = 1) := by
  rw [byte_getLsbD_zero, State.word, decide_eq_decide]
  omega

theorem word_shiftRight {cin : Bool} (hhigh : t.cell high = shiftRight (s.cell high) cin)
    (hlow : t.cell low = shiftRight (s.cell low) ((s.cell high).getLsbD 0)) :
    t.word high low = s.word high low / 2 + (if cin then 32768 else 0) := by
  rw [State.word, State.word, hlow, hhigh, shiftRight_toNat, shiftRight_toNat, byte_getLsbD_zero]
  simp only [decide_eq_true_eq]
  split_ifs <;> omega

/-- Whatever enters the high byte from the left, ROR of the low byte makes a right shift of the word. -/
theorem execAll_shiftRight_ror {cin : Bool} (hi : ∀ s, exec i s = .next (modifyMem f (.ab high) s))
    (hval : (f (s.cell high) s.cc).val = shiftRight (s.cell high) cin)
    (hcc : (f (s.cell high) s.cc).cc.c = (s.cell high).getLsbD 0)
    (hhigh : s.ordinary high) (hlow : s.ordinary low) (hne : high ≠ low) :
    ∃ t, execAll [i, .ror (.ab low)] s = .next t ∧
      t.word high low = s.word high low / 2 + (if cin then 32768 else 0) ∧
      t.cc.c = decide (s.word high low % 2 = 1) := by
  obtain ⟨t, ht, hthigh, hlast⟩ :=
    execAll_modifyMem_pair (j := .ror (.ab low)) (g := computeRor) hi (fun _ => rfl) hhigh hlow hne
  obtain ⟨htlow, htcc⟩ := Computed.mk.inj hlast
  refine ⟨t, ht, word_shiftRight (hthigh.trans hval) (htlow.trans ?_), ?_⟩
  · rw [hcc]
  · rw [htcc, ← word_getLsbD_zero]

end words

/-! The obligations. -/

/-- Settles O53: rows F, B and C of columns 0 and 3 to 8, and the shifts of A or of the byte at EA. -/
theorem shiftAOrMemory : Obligations.ShiftAOrMemory := by
  refine ⟨by decide, by decide, codedAs_of_wf rfl rfl rfl rfl,
    codedMem_of_row (row := 15) fun _ h => codedAs_of_wf h rfl rfl rfl,
    codedAs_of_wf rfl rfl rfl rfl,
    codedMem_of_row (row := 11) fun _ h => codedAs_of_wf h rfl rfl rfl,
    codedAs_of_wf rfl rfl rfl rfl,
    codedMem_of_row (row := 12) fun _ h => codedAs_of_wf h rfl rfl rfl,
    fun s => ⟨fun _ hr => inherentEffect_of_modifyA rfl (computeAsr_eq hr),
      fun _ hr => inherentEffect_of_modifyA rfl (computeLsl_eq hr),
      fun _ hr => inherentEffect_of_modifyA rfl (computeLsr_eq hr), ?_⟩⟩
  rintro m _ - rfl
  exact ⟨fun _ hr => modifyEffect_of_modifyMem rfl (computeAsr_eq hr),
    fun _ hr => modifyEffect_of_modifyMem rfl (computeLsl_eq hr),
    fun _ hr => modifyEffect_of_modifyMem rfl (computeLsr_eq hr)⟩

/-- Settles O54: rows D and E of columns 0 and 3 to 8, and the rotations of A or of the byte at EA. -/
theorem rotateAOrMemory : Obligations.RotateAOrMemory := by
  refine ⟨codedAs_of_wf rfl rfl rfl rfl,
    codedMem_of_row (row := 13) fun _ h => codedAs_of_wf h rfl rfl rfl,
    codedAs_of_wf rfl rfl rfl rfl,
    codedMem_of_row (row := 14) fun _ h => codedAs_of_wf h rfl rfl rfl,
    fun s => ⟨fun _ hr => inherentEffect_of_modifyA rfl (computeRol_eq hr),
      fun _ hr => inherentEffect_of_modifyA rfl (computeRor_eq hr), ?_⟩⟩
  rintro m _ - rfl
  exact ⟨fun _ hr => modifyEffect_of_modifyMem rfl (computeRol_eq hr),
    fun _ hr => modifyEffect_of_modifyMem rfl (computeRor_eq hr)⟩

/-- Settles O55: C and A are a ring of nine bits, and each instruction turns it by a fixed number of places. -/
theorem nineRotationsRestore : Obligations.NineRotationsRestore := fun s =>
  ⟨rola_turnsRing.nine_restore s, rora_turnsRing.nine_restore s⟩

/-- Settles O56: C carries the bit from one byte to the other; what enters the word is 0 for LSL and LSR and the sign
for ASR. -/
theorem byteShiftsMakeWordShifts : Obligations.ByteShiftsMakeWordShifts := by
  intro s high low hhigh hlow hne
  refine ⟨?left, ?logicalRight, ?arithmeticRight⟩
  case left =>
    obtain ⟨t, ht, htlow, hlast⟩ := execAll_modifyMem_pair
      (i := .lsl (.ab low)) (j := .rol (.ab high)) (f := computeLsl) (g := computeRol)
      (fun _ => rfl) (fun _ => rfl) hlow hhigh hne.symm
    obtain ⟨hthigh, htcc⟩ := Computed.mk.inj hlast
    exact ⟨t, ht, word_shiftLeft htlow hthigh, by rw [htcc, ← word_msb]⟩
  case logicalRight =>
    exact execAll_shiftRight_ror (f := computeLsr) (cin := false) (fun _ => rfl) rfl rfl hhigh hlow hne
  case arithmeticRight =>
    have h := execAll_shiftRight_ror (i := .asr (.ab high)) (f := computeAsr) (fun _ => rfl) rfl rfl
      hhigh hlow hne
    simpa only [word_msb s high low, decide_eq_true_eq] using h

end Sys2Proof.Machine

/-! The pushes and pulls of one register (47_stack_misc.md R210 to R217): the shapes `push8` and `pull8` with PC left
past the instruction.  With them O57 and O58. -/

namespace Sys2Proof.Machine

section pushesAndPulls

variable {i : Instr} {s t : State} {a x y pc v b : Byte} {cc : CC}

theorem pushEffect_of_push8_keepsPC (he : exec i s = .next (push8 s v)) : pushEffect i s v s.pc := by
  have hpc : (push8 s v).setPC s.pc = push8 s v :=
    congrArg (push8 s v).setPC (push8_pc s v).symm
  exact pushEffect_of_push8 (he.trans (congrArg _ hpc.symm))

/-- The five flags are all there is of CC: a byte with these bits and nothing above them is CC as a byte (R31, R32). -/
theorem CC.toByte_eq_of_ofByte (hlt : b.toNat < 32) (hflags : CC.ofByte b = cc) : cc.toByte = b := by
  rw [← hflags, CC.toByte_ofByte]
  exact BitVec.eq_of_toNat_eq (Nat.and_two_pow_sub_one_of_lt_two_pow (n := 5) hlt)

/-- A pull into whatever register: outside the registers only the read at SP happens. -/
theorem pullEffect_of_sameOutside (he : exec i s = .next t)
    (hout : (pull8 s).2.SameOutsideRegisters t) (hr : t.hasRegisters a x y (s.sp + 1) pc cc) :
    pullEffect i s a x y pc cc :=
  pullEffect_of he hr (hout.mem.trans (pull8_mem s)) (hout.portOut.trans (pull8_portOut s))
    hout.portFB hout.portFC (hout.lines.trans (pull8_lines s)) (hout.board.trans (pull8_board s))

end pushesAndPulls

/-! The obligations. -/

/-- Settles O57: four cells of the opcode map, and the push of each register; CC is pushed as its byte. -/
theorem pushStoresBelowTheStackPointer : Obligations.PushStoresBelowTheStackPointer := by
  refine ⟨?_, ?_, ?_, ?_, fun s => ⟨pushEffect_of_push8_keepsPC rfl, pushEffect_of_push8_keepsPC rfl,
    pushEffect_of_push8_keepsPC rfl, fun b hlt hi hn hz hv hc => ?_⟩⟩
  case refine_5 =>
    have hbyte : s.cc.toByte = b :=
      CC.toByte_eq_of_ofByte hlt ((CC.mk.injEq ..).mpr ⟨hi, hn, hz, hv, hc⟩)
    rw [← hbyte]
    exact pushEffect_of_push8_keepsPC rfl
  all_goals exact codedAs_of_wf rfl rfl rfl rfl

/-- Settles O58: four cells of the opcode map, and the pull into each register; CC takes the five low bits. -/
theorem pullLoadsFromTheStackPointer : Obligations.PullLoadsFromTheStackPointer := by
  refine ⟨?_, ?_, ?_, ?_, ?_⟩
  case refine_5 =>
    rintro s _ rfl
    exact ⟨
      pullEffect_of_sameOutside rfl (State.setA_sameOutside _ _) (by simp [State.hasRegisters]),
      pullEffect_of_sameOutside rfl (State.setX_sameOutside _ _) (by simp [State.hasRegisters]),
      pullEffect_of_sameOutside rfl (State.setY_sameOutside _ _) (by simp [State.hasRegisters]),
      pullEffect_of_sameOutside rfl (State.setCC_sameOutside _ _)
        (by simp [State.hasRegisters, CC.ofByte])⟩
  all_goals exact codedAs_of_wf rfl rfl rfl rfl

end Sys2Proof.Machine

/-! The ALU of the appendix (49_alu_control.md R226 to R238) beside the computations of Machine/Flags.lean: what the
adder rows give in terms of `add8` and `sub8`, and CC under each setting of the selectors.  With them O59. -/

namespace Sys2Proof.Machine

/-! The rows of the function table (R230) that the instructions compute otherwise. -/

section functionTable

variable (d e : Byte) (cin bin : Bool)

theorem aluAdd_eq_add8 :
    aluAdd d e cin = aluOut (add8 d e cin).r (add8 d e cin).v (add8 d e cin).c := by
  have hr : d + e + (BitVec.ofBool cin).setWidth 8 = (add8 d e cin).r := by
    rw [add8_r]
    cases cin <;> rfl
  rw [aluAdd, hr]
  rfl

theorem add8_false_r : (add8 d e false).r = d + e :=
  (add8_r d e false).trans (BitVec.add_zero (d + e))

theorem add8_true_r : (add8 d e true).r = d + e + 1 :=
  add8_r d e true

/-- An adder row as it stands in the function table (R230). -/
theorem alu_add : alu 0b1011 d e cin = aluOut (add8 d e cin).r (add8 d e cin).v (add8 d e cin).c :=
  aluAdd_eq_add8 d e cin

/-- The signed value of the one's complement. -/
theorem byte_toInt_not : (~~~e).toInt = -e.toInt - 1 := by
  have he := e.isLt
  rw [byte_toInt, byte_toInt, BitVec.toNat_not]
  split_ifs <;> omega

theorem add8_not_r : (add8 d (~~~e) (!bin)).r = (sub8 d e bin).r := by
  have hnot : d - e = d + ~~~e + 1 := by
    rw [BitVec.sub_eq_add_neg, BitVec.neg_eq_not_add, BitVec.add_assoc]
    rfl
  rw [sub8_r, hnot]
  cases bin with
  | false => exact (add8_true_r d (~~~e)).trans (BitVec.sub_zero _).symm
  | true => exact (add8_false_r d (~~~e)).trans (BitVec.add_sub_cancel _ 1).symm

theorem add8_not_v : (add8 d (~~~e) (!bin)).v = (sub8 d e bin).v := by
  have hexact : d.toInt + (~~~e).toInt + (!bin).toNat = d.toInt - e.toInt - bin.toNat := by
    rw [byte_toInt_not]
    cases bin <;> simp <;> omega
  rw [add8, sub8, hexact]

/-- The adder carries exactly where the subtraction does not borrow. -/
theorem add8_not_c : (!(add8 d (~~~e) (!bin)).c) = (sub8 d e bin).c := by
  have he := e.isLt
  rw [add8_c, sub8_c, BitVec.toNat_not, ← decide_not, decide_eq_decide]
  cases bin <;> simp <;> omega

/-- The subtracting row adds the one's complement, with the borrow inverted on the way in and out (R227). -/
theorem alu_subtract : alu 0b1100 d e (!bin) =
    aluOut (sub8 d e bin).r (sub8 d e bin).v (sub8 d e bin).c := by
  have hrow : alu 0b1100 d e (!bin) =
      { aluAdd d (~~~e) (!bin) with c := !(aluAdd d (~~~e) (!bin)).c } := rfl
  rw [hrow, aluAdd_eq_add8, add8_not_r, add8_not_v, ← add8_not_c]
  rfl

/-- The two's complement is the one's complement and one more. -/
theorem alu_negate : alu 0b0101 d e true = aluOut (-d) (d == 0x80) (d != 0) := by
  rw [BitVec.neg_eq_not_add]
  rfl

theorem alu_complement : alu 0b0101 d e false = aluOut (d ^^^ 0xFF) (d == 0x80) (d != 0) := by
  have hnot : d ^^^ 0xFF = ~~~d + 0 := BitVec.xor_allOnes.trans (BitVec.add_zero (~~~d)).symm
  rw [hnot]
  rfl

/-- Of the 256 bytes only $7F overflows when one is added. -/
theorem alu_increment : alu 0b1001 d e true = aluOut (d + 1) (d == 0x7F) (add8 d 0 true).c := by
  have hv : (add8 d 0 true).v = (d == 0x7F) := by
    rw [add8_v, add8_true_r, Bool.eq_iff_iff]
    simp only [byte_msb, Bool.and_eq_true, bne_iff_ne, ne_eq, decide_eq_decide, beq_iff_eq]
    bv_omega
  have hr : (add8 d 0 true).r = d + 1 := by rw [add8_true_r]; bv_omega
  rw [← hv, ← hr]
  exact aluAdd_eq_add8 d 0 true

/-- Adding $FF is subtracting one, and only $80 overflows. -/
theorem alu_decrement (cin : Bool) :
    alu 0b1010 d e cin = aluOut (d - 1) (d == 0x80) (add8 d 0xFF false).c := by
  have hv : (add8 d 0xFF false).v = (d == 0x80) := by
    rw [add8_v, add8_false_r, Bool.eq_iff_iff]
    simp only [byte_msb, Bool.and_eq_true, bne_iff_ne, ne_eq, decide_eq_decide, beq_iff_eq]
    bv_omega
  have hr : (add8 d 0xFF false).r = d - 1 := by rw [add8_false_r]; bv_omega
  rw [← hv, ← hr]
  exact aluAdd_eq_add8 d 0xFF false

theorem alu_pass : alu 0b1001 d e false =
    aluOut d (add8 d 0 false).v (add8 d 0 false).c := by
  have hr : (add8 d 0 false).r = d := (add8_false_r d 0).trans (BitVec.add_zero d)
  have halu := aluAdd_eq_add8 d 0 false
  rwa [hr] at halu

end functionTable

/-! CC under the settings of the selectors (R231, R235), from what the ALU puts out. -/

section selectors

variable {f : BitVec 4} {cin : BitVec 2} {d e bus r : Byte} {v c : Bool} {cc : CC}

theorem aluPass_allFlags (h : alu f d e (selectCin cin cc.c) = aluOut r v c) :
    aluPass f (allFlags cin) d e bus cc = ⟨r, { cc.setNZ r with v := v, c := c }⟩ := by
  simp only [aluPass, allFlags, h]
  rfl

theorem aluPass_keepC (h : alu f d e (selectCin cin cc.c) = aluOut r v c) :
    aluPass f (keepC cin) d e bus cc = ⟨r, { cc.setNZ r with v := v }⟩ := by
  simp only [aluPass, keepC, allFlags, h]
  rfl

theorem aluPass_clearV (h : alu f d e (selectCin cin cc.c) = aluOut r v c) :
    aluPass f (clearV cin) d e bus cc = ⟨r, cc.ofLogic r⟩ := by
  simp only [aluPass, clearV, keepC, allFlags, h]
  rfl

theorem aluPass_clearVC (h : alu f d e (selectCin cin cc.c) = aluOut r v c) :
    aluPass f (clearVC cin) d e bus cc = ⟨r, { cc.setNZ r with v := false, c := false }⟩ := by
  simp only [aluPass, clearVC, clearV, keepC, allFlags, h]
  rfl

end selectors

/-! The obligations. -/

/-- Settles O59: the function of each instruction gives its result, carry and overflow, and its selectors take the
flags from there; the rows without arithmetic are the same expressions on both sides. -/
theorem aluServesTheInstructions : Obligations.AluServesTheInstructions := by
  intro a b bus cc
  have hneg : computeNeg a cc = ⟨-a, { cc.setNZ (-a) with v := a == 0x80, c := a != 0 }⟩ := by
    rw [computeNeg_eq rfl, CC.setNZ, neg_beq_zero]
  have htst := aluPass_clearVC (cin := 0b00) (bus := bus) (cc := cc) (alu_pass a b)
  exact ⟨(aluPass_allFlags (alu_add a b false)).symm,
    (aluPass_allFlags (alu_add a b cc.c)).symm,
    (aluPass_allFlags (alu_subtract a b false)).symm,
    (aluPass_allFlags (alu_subtract a b cc.c)).symm,
    hneg.trans (aluPass_allFlags (alu_negate a b)).symm,
    (aluPass_clearV (alu_complement a b)).symm,
    (aluPass_keepC (alu_increment a b)).symm,
    (aluPass_keepC (alu_decrement a b false)).symm,
    (congrArg Computed.cc htst).symm,
    (aluPass_allFlags rfl).symm,
    (aluPass_clearV rfl).symm, (aluPass_clearV rfl).symm, (aluPass_clearV rfl).symm,
    (aluPass_allFlags rfl).symm, (aluPass_allFlags rfl).symm, (aluPass_allFlags rfl).symm,
    (aluPass_allFlags rfl).symm, (aluPass_allFlags rfl).symm,
    (congrArg Computed.cc (aluPass_clearV rfl)).symm, rfl, rfl⟩

end Sys2Proof.Machine

/-! Exceptions (60_exceptions.md R240 to R254): entering a handler, what RTI restores of the frame that the entry
pushed, and the events that change the interrupt mask.  With them O18, O19, O20, O22, O23 and O16. -/

namespace Sys2Proof.Machine

/-! The registers one by one. -/

section hasRegisters

variable {t : State} {a x y sp pc : Byte} {cc : CC} (h : t.hasRegisters a x y sp pc cc)
include h

theorem State.hasRegisters.sp_eq : t.sp = sp := by
  obtain ⟨-, -, -, hsp, -, -⟩ := h
  exact hsp

theorem State.hasRegisters.pc_eq : t.pc = pc := by
  obtain ⟨-, -, -, -, hpc, -⟩ := h
  exact hpc

theorem State.hasRegisters.cc_eq : t.cc = cc := by
  obtain ⟨-, -, -, -, -, hcc⟩ := h
  exact hcc

end hasRegisters

/-! The entries: a trap and an interrupt differ in the vector and in what becomes of I. -/

section entries

variable {s : State}

theorem takeException_entersHandler (s : State) {vector : Byte} (setI : Bool)
    (h : portAt vector = none) :
    entersHandler s (takeException s vector setI) vector (setI || s.cc.i) := by
  rw [takeException_eq s setI h]
  exact ⟨by simp [State.hasRegisters, State.cell], pushesFrame_of_pushFrame (by simp) (by simp),
    ⟨by simp, by simp⟩, by simp, by simp⟩

theorem exec_illegal_entersHandler (op : Byte) (s : State) :
    ∃ t, exec (.illegal op) s = .next t ∧ entersHandler s t 0xFE (s.board.trapSetsI || s.cc.i) :=
  ⟨_, rfl, takeException_entersHandler s s.board.trapSetsI rfl⟩

theorem State.interruptTaken_iff :
    s.interruptTaken = true ↔ s.boundary.irq = true ∧ s.cc.i = false := by
  simp [State.interruptTaken]

theorem step_interrupt_entersHandler (hreset : s.boundary.reset = .idle)
    (hirq : s.interruptTaken = true) :
    ∃ t, step s = .next t ∧ entersHandler s.passBoundary t 0xFD true :=
  ⟨_, step_interrupt hreset hirq, takeException_entersHandler s.passBoundary true rfl⟩

theorem decode_of_mem_illegalOpcodes {op : Byte} (h : op ∈ illegalOpcodes) (rest : List Byte) :
    decode (op :: rest) = .ok (.illegal op, rest) :=
  decode_of_one (opcodeRow_of_mem_illegalOpcodes h)

end entries

/-! The frame between the entry and the return (R243, R249). -/

section frames

variable {s t u : State} {vector : Byte} {setI : Bool}

/-- The frame that an entry from `s` pushes lies on top of the stack of `t`. -/
structure HoldsFrame (s t : State) : Prop where
  sp : t.sp = s.sp - 5
  pc : t.cell (s.sp - 1) = s.pc
  y : t.cell (s.sp - 2) = s.y
  x : t.cell (s.sp - 3) = s.x
  a : t.cell (s.sp - 4) = s.a
  cc : t.cell (s.sp - 5) = s.cc.toByte

theorem State.frameFits_iff : s.frameFits ↔ s.ordinary (s.sp - 1) ∧ s.ordinary (s.sp - 2) ∧
    s.ordinary (s.sp - 3) ∧ s.ordinary (s.sp - 4) ∧ s.ordinary (s.sp - 5) := by
  simp [State.frameFits, State.ordinary]

/-- Where the frame lies depends on SP and the board alone. -/
theorem State.frameFits.congr (h : s.frameFits) (hsp : u.sp = s.sp) (hboard : u.board = s.board) :
    u.frameFits := by
  rw [State.frameFits, hsp, hboard]
  exact h

/-- A frame in ordinary memory is stored whole: its five addresses differ. -/
theorem entersHandler.holdsFrame (h : entersHandler s t vector setI) (hfits : s.frameFits) :
    HoldsFrame s t := by
  obtain ⟨⟨-, -, -, hsp, -, -⟩, ⟨hcell, -⟩, -, -⟩ := h
  obtain ⟨h1, h2, h3, h4, h5⟩ := State.frameFits_iff.1 hfits
  have hordinary : ∀ b, s.ordinary b → ¬ (b = 0xFB ∨ b = 0xFC ∨ b ∈ s.board.readOnly) := by
    simp [State.ordinary]
  constructor
  case sp => exact hsp
  case pc => rw [hcell, if_neg (hordinary _ h1), if_pos rfl]
  case y => rw [hcell, if_neg (hordinary _ h2)]; simp [sub_right_inj]
  case x => rw [hcell, if_neg (hordinary _ h3)]; simp [sub_right_inj]
  case a => rw [hcell, if_neg (hordinary _ h4)]; simp [sub_right_inj]
  case cc => rw [hcell, if_neg (hordinary _ h5)]; simp [sub_right_inj]

/-- A frame in ordinary memory sends nothing out. -/
theorem entersHandler.portOut_eq (h : entersHandler s t vector setI) (hfits : s.frameFits) :
    t.portOut = s.portOut := by
  obtain ⟨-, ⟨-, hout⟩, -, -⟩ := h
  obtain ⟨h1, h2, h3, h4, h5⟩ := State.frameFits_iff.1 hfits
  have hport : ∀ b, s.ordinary b → portAt b = none := fun b hb => portAt_eq_none.2 ⟨hb.1, hb.2.1⟩
  simp only [hout, portEvents, List.filterMap_cons, hport _ h1, hport _ h2, hport _ h3, hport _ h4,
    hport _ h5, Option.map_none, List.filterMap_nil, List.append_nil]

/-- The frame leaves every cell alone that is none of its five. -/
theorem entersHandler.cell_outside (h : entersHandler s t vector setI) {b : Byte}
    (hb : ∀ k ∈ [1, 2, 3, 4, 5], s.sp - k ≠ b) : t.cell b = s.cell b := by
  obtain ⟨-, ⟨hcell, -⟩, -, -⟩ := h
  simp only [List.forall_mem_cons] at hb
  obtain ⟨h1, h2, h3, h4, h5, -⟩ := hb
  rw [hcell, if_neg h1.symm, if_neg h2.symm, if_neg h3.symm, if_neg h4.symm, if_neg h5.symm, ite_self]

/-- What lies on the stack depends on SP and memory alone. -/
theorem HoldsFrame.congr (h : HoldsFrame s t) (hsp : u.sp = t.sp) (hmem : u.mem = t.mem) :
    HoldsFrame s u := by
  have hcell : ∀ b, u.cell b = t.cell b := fun b => by rw [State.cell, State.cell, hmem]
  exact ⟨hsp.trans h.sp, (hcell _).trans h.pc, (hcell _).trans h.y, (hcell _).trans h.x,
    (hcell _).trans h.a, (hcell _).trans h.cc⟩

/-- RTI pulls the five bytes in the order opposite to the pushes, so every register is back (R249). -/
theorem HoldsFrame.returnFromException_hasRegisters (h : HoldsFrame s t) (hfits : s.frameFits) :
    (returnFromException t).hasRegisters s.a s.x s.y s.sp s.pc s.cc := by
  obtain ⟨hcc, ha, hx, hy, hpc, hsp⟩ := returnFromException_fields t
  obtain ⟨h1, h2, h3, h4, h5⟩ := State.frameFits_iff.1 hfits
  have hread : ∀ b, s.ordinary b → t.readVal b = t.cell b := fun b hb =>
    t.readVal_memory (portAt_eq_none.2 ⟨hb.1, hb.2.1⟩)
  have e1 : s.sp - 5 + 1 = s.sp - 4 := by bv_omega
  have e2 : s.sp - 5 + 2 = s.sp - 3 := by bv_omega
  have e3 : s.sp - 5 + 3 = s.sp - 2 := by bv_omega
  have e4 : s.sp - 5 + 4 = s.sp - 1 := by bv_omega
  rw [h.sp] at hcc ha hx hy hpc hsp
  rw [hread _ h5, h.cc, CC.ofByte_toByte] at hcc
  rw [e1, hread _ h4, h.a] at ha
  rw [e2, hread _ h3, h.x] at hx
  rw [e3, hread _ h2, h.y] at hy
  rw [e4, hread _ h1, h.pc] at hpc
  exact ⟨ha, hx, hy, hsp.trans (BitVec.sub_add_cancel s.sp 5), hpc, hcc⟩

/-- RTI right after an entry. -/
theorem entersHandler.rti_restores (h : entersHandler s t vector setI) (hfits : s.frameFits) :
    ∃ u, exec .rti t = .next u ∧ u.hasRegisters s.a s.x s.y s.sp s.pc s.cc ∧ storesNothing t u ∧
      u.portOut = s.portOut := by
  obtain ⟨hmem, hout, -, -⟩ := returnFromException_frame t
  exact ⟨returnFromException t, rfl, (h.holdsFrame hfits).returnFromException_hasRegisters hfits,
    ⟨fun b => by rw [State.cell, State.cell, hmem], hout⟩, hout.trans (h.portOut_eq hfits)⟩

end frames

/-! RTI as the one instruction of a handler (R251). -/

section handlers

variable {s t : State} {b : Boundary} {rest : List Boundary}

theorem State.boundary_of_lines (h : s.lines = b :: rest) : s.boundary = b := by
  rw [State.boundary, h, List.headD_cons]

theorem State.fetches_of_masked (hreset : s.boundary.reset = .idle) (hmask : s.cc.i = true) :
    s.fetches = true :=
  State.fetches_iff.2 ⟨hreset, by simp [State.interruptTaken, hmask]⟩

/-- The step at an RTI that finds the frame of `s` on the stack. -/
theorem HoldsFrame.step_rti (h : HoldsFrame s t) (hfits : s.frameFits) (hfetches : t.fetches = true)
    (hop : t.readVal t.pc = 0x44) :
    ∃ u, step t = .next u ∧ u.hasRegisters s.a s.x s.y s.sp s.pc s.cc ∧ u.mem = t.mem ∧
      keepsLines t.passBoundary u := by
  have hdecode : decode [t.readVal t.pc, t.readVal (t.pc + 1)] = .ok (.rti, [t.readVal (t.pc + 1)]) := by
    rw [hop]
    rfl
  obtain ⟨f, hstep, ⟨-, -, -, hsp, -, -⟩, hmem, -, -, hlines, hboard⟩ :=
    stepRunsTheDecodedInstruction t .rti _ hfetches rfl hdecode
  obtain ⟨hmem', -, hlines', hboard'⟩ := returnFromException_frame f
  exact ⟨returnFromException f, hstep,
    (h.congr hsp hmem).returnFromException_hasRegisters hfits, hmem'.trans hmem,
    hlines'.trans hlines, hboard'.trans hboard⟩

/-- The second step after an interrupt: the handler entered is a lone RTI, which the frame has left in its place. -/
theorem entersHandler.step_lone_rti (h : entersHandler s t 0xFD true) (hfits : s.frameFits)
    (hreset : t.boundary.reset = .idle)
    (hmiss : ∀ k ∈ [1, 2, 3, 4, 5], s.sp - k ≠ 0xFD ∧ s.sp - k ≠ s.cell 0xFD)
    (hport : portAt (s.cell 0xFD) = none) (hop : s.cell (s.cell 0xFD) = 0x44) :
    ∃ u, step t = .next u ∧ u.hasRegisters s.a s.x s.y s.sp s.pc s.cc ∧ u.mem = t.mem ∧
      keepsLines t.passBoundary u := by
  have hvector : t.cell 0xFD = s.cell 0xFD := h.cell_outside fun k hk => (hmiss k hk).1
  have hhandler : t.cell (s.cell 0xFD) = 0x44 :=
    (h.cell_outside fun k hk => (hmiss k hk).2).trans hop
  have hframe := h.holdsFrame hfits
  obtain ⟨hregs, -⟩ := h
  refine hframe.step_rti hfits (State.fetches_of_masked hreset (by rw [hregs.cc_eq])) ?_
  rw [hregs.pc_eq, hvector, t.readVal_memory hport, hhandler]

end handlers

/-! The interrupt mask (49_alu_control.md R236). -/

section mask

variable {i : Instr} {s t : State}

theorem loadsFlags_iff : loadsFlags i = true ↔ (∃ n, i = .orcc n) ∨ (∃ n, i = .andcc n) ∨
    i = .rti ∨ i = .tfrACC ∨ i = .exgACC ∨ i = .pulcc := by
  cases i <;> simp [loadsFlags]

theorem writesI_iff : writesI s i = true ↔
    (∃ op, i = .illegal op ∧ s.board.trapSetsI = true) ∨ loadsFlags i = true := by
  cases i <;> simp [writesI, loadsFlags]

/-- An instruction that changes I is one that R34 and R254 name for it; ORCC and the trap only set bits of CC, and
ANDCC only clears them. -/
theorem exec_changes_mask (h : exec i s = .next t) (hne : t.cc.i ≠ s.cc.i) :
    (∃ op, i = .illegal op ∧ s.board.trapSetsI = true ∧ t.cc.i = true) ∨
      (∃ n, i = .orcc n ∧ t.cc.i = true) ∨ (∃ n, i = .andcc n ∧ t.cc.i = false) ∨
      i = .rti ∨ i = .tfrACC ∨ i = .exgACC ∨ i = .pulcc := by
  have hor : ∀ old bit : Bool, (old || bit) ≠ old → (old || bit) = true := by decide
  have hand : ∀ old bit : Bool, (old && bit) ≠ old → (old && bit) = false := by decide
  have hwrites : writesI s i = true := by
    by_contra hkeeps
    exact hne ((exec_flagFrame h).mask (Bool.eq_false_iff.2 hkeeps))
  obtain ⟨op, rfl, hsets⟩ | hloads := writesI_iff.1 hwrites
  · obtain rfl := Host.Outcome.next.inj h
    exact .inl ⟨op, rfl, hsets, by rw [trapEntry_cc, hsets, Bool.true_or]⟩
  · obtain ⟨n, rfl⟩ | ⟨n, rfl⟩ | hpulls := loadsFlags_iff.1 hloads
    · obtain rfl := Host.Outcome.next.inj ((exec_orcc n s).symm.trans h)
      exact .inr (.inl ⟨n, rfl, hor _ _ hne⟩)
    · obtain rfl := Host.Outcome.next.inj ((exec_andcc n s).symm.trans h)
      exact .inr (.inr (.inl ⟨n, rfl, hand _ _ hne⟩))
    · exact .inr (.inr (.inr hpulls))

/-- The fetch finds what the two bytes at PC decode to. -/
theorem decode_fetched (s : State) : ∃ rest, decode [s.readVal s.pc, s.readVal (s.pc + 1)] =
    .ok ((fetchInstr s).1, rest) := by
  obtain ⟨i, rest, hdecode, -⟩ := illegalOpcodesAreExactlySix (s.readVal s.pc) (s.readVal (s.pc + 1))
  rw [fetchInstr_eq, decode_pair hdecode]
  exact ⟨rest, hdecode⟩

end mask

/-! The obligations. -/

/-- Settles O16, by the four cases of a step: a reset and an interrupt entry set I, and an instruction finds I as the
fetch left it. -/
theorem maskChangesOnlyByTheseEvents : Obligations.MaskChangesOnlyByTheseEvents := by
  intro s t hstep hne
  cases hreset : s.boundary.reset with
  | insideInstruction =>
    rw [step_insideInstruction hreset] at hstep
    exact nomatch hstep
  | atBoundary =>
    rw [step_atBoundary hreset] at hstep
    obtain rfl := Host.Outcome.next.inj hstep
    exact .inl ⟨by simp [resetEntry_eq], .inl rfl⟩
  | idle =>
    cases hirq : s.interruptTaken with
    | true =>
      rw [step_interrupt hreset hirq] at hstep
      obtain rfl := Host.Outcome.next.inj hstep
      exact .inl ⟨by simp [irqEntry_eq], .inr rfl⟩
    | false =>
      have hfetches : s.fetches = true := State.fetches_iff.2 ⟨hreset, hirq⟩
      rw [step_fetches hfetches] at hstep
      have hfetched := fetchInstr_fetched s.passBoundary
      have hcc := hfetched.registers.cc_eq
      obtain ⟨-, hboard⟩ := hfetched.lines
      obtain ⟨rest, hdecode⟩ := decode_fetched s.passBoundary
      have hchange := exec_changes_mask hstep (by rwa [hcc])
      rw [hboard] at hchange
      simp only [State.passBoundary_readVal, State.passBoundary_pc] at hdecode
      exact .inr ⟨hfetches, _, rest, hdecode, hchange⟩

/-- Settles O18: the trap is one case of taking an exception. -/
theorem illegalOpcodeTakesTheTrap : Obligations.IllegalOpcodeTakesTheTrap :=
  exec_illegal_entersHandler

/-- Settles O19: the fetch of a blank cell takes one byte, and the trap is taken from there (O18). -/
theorem trapStacksTheAddressAfterTheOpcode : Obligations.TrapStacksTheAddressAfterTheOpcode := by
  intro s hfetches hop
  obtain ⟨t, hstep, hregs, hmem, hout, hreads, hlines⟩ :=
    stepRunsTheDecodedInstruction s (.illegal (s.readVal s.pc)) _ hfetches (List.contains_iff_mem.2 hop)
      (decode_of_mem_illegalOpcodes hop [s.readVal (s.pc + 1)])
  obtain ⟨u, hexec, henters⟩ := exec_illegal_entersHandler (s.readVal s.pc) t
  have hlength : byteLength (.illegal (s.readVal s.pc)) = 1 := rfl
  have hboard : t.board = s.board := hlines.2
  rw [hlength] at hregs hreads
  rw [hregs.cc_eq, hboard] at henters
  exact ⟨t, u, hstep.trans hexec, henters, hregs, hmem, hout, by simpa using hreads, hlines⟩

/-- Settles O20: the two cases of a step without reset. -/
theorem interruptIsTakenWhereUnmasked : Obligations.InterruptIsTakenWhereUnmasked := by
  refine fun s hreset => ⟨fun htaken => ?_, fun hnot => ?_⟩
  · exact step_interrupt_entersHandler hreset (State.interruptTaken_iff.2 htaken)
  · rw [← State.interruptTaken_iff, Bool.not_eq_true] at hnot
    exact step_fetches (State.fetches_iff.2 ⟨hreset, hnot⟩)

/-- Settles O22: both entries push the frame, and RTI pulls it. -/
theorem returnRestoresWhatEntrySaved : Obligations.ReturnRestoresWhatEntrySaved := by
  refine fun s hfits => ⟨fun hreset hirq => ?_, fun op => ?_⟩
  · obtain ⟨t, hstep, henters⟩ := step_interrupt_entersHandler hreset hirq
    obtain ⟨u, hu⟩ := henters.rti_restores hfits
    exact ⟨t, u, hstep, hu⟩
  · obtain ⟨t, hexec, henters⟩ := exec_illegal_entersHandler op s
    obtain ⟨u, hu⟩ := henters.rti_restores hfits
    exact ⟨t, u, hexec, hu⟩

/-- Settles O23: entry, RTI in the handler, entry again.  The frame misses the vector, so the second entry finds it
as the first one did. -/
theorem requestStillUpIsTakenAgainAfterReturn : Obligations.RequestStillUpIsTakenAgainAfterReturn := by
  rintro s _ rest rfl hlines hmask hfits hmiss hfb hfc hop
  have hvector : ∀ k ∈ [1, 2, 3, 4, 5], s.sp - k ≠ 0xFD := fun k hk => (hmiss k hk).1
  have hsboundary := State.boundary_of_lines hlines
  obtain ⟨t, hst, ht⟩ := step_interrupt_entersHandler (s := s) (by rw [hsboundary])
    (State.interruptTaken_iff.2 ⟨by rw [hsboundary], hmask⟩)
  have htvector : t.cell 0xFD = s.cell 0xFD := ht.cell_outside hvector
  have ⟨_, _, _, htlines, htboard⟩ := ht
  rw [State.passBoundary_lines, hlines, List.tail_cons] at htlines
  have htboundary := State.boundary_of_lines htlines
  obtain ⟨u, htu, hu, humem, hulines, huboard⟩ := ht.step_lone_rti hfits (by rw [htboundary]) hmiss
    (portAt_eq_none.2 ⟨hfb, hfc⟩) hop
  have husp : u.sp = s.sp := hu.sp_eq
  rw [State.passBoundary_lines, htlines, List.tail_cons] at hulines
  have huboundary := State.boundary_of_lines hulines
  obtain ⟨v, huv, hv⟩ := step_interrupt_entersHandler (s := u) (by rw [huboundary])
    (State.interruptTaken_iff.2 ⟨by rw [huboundary], hu.cc_eq ▸ hmask⟩)
  have hvframe : HoldsFrame u.passBoundary v :=
    hv.holdsFrame (State.frameFits.congr hfits husp (huboard.trans htboard))
  have hucell : u.cell 0xFD = t.cell 0xFD := by rw [State.cell, State.cell, humem]
  have hvcell : v.cell 0xFD = u.cell 0xFD := hv.cell_outside (by rwa [← husp] at hvector)
  refine ⟨t, u, v, hst, htu, huv, hu, ?_, ?_, ?_⟩
  · rw [← husp]
    exact hvframe.pc.trans hu.pc_eq
  · rw [hv.1.pc_eq, hvcell, hucell, htvector]
  · rw [← husp]
    exact hvframe.sp

end Sys2Proof.Machine

/-! Reset (70_reset_and_hazards.md R280, R282) and the end of a run (R292): a self-branch in memory comes back to the
state it started from, and nothing but the boundary moves on.  With them O17 and O60. -/

namespace Sys2Proof.Machine

/-! The fetch of a two-byte instruction from memory. -/

section fetchFromMemory

variable {s : State} {f : Byte → Instr}

theorem fetch8_memory (h : portAt s.pc = none) : fetch8 s = (s.cell s.pc, s.setPC (s.pc + 1)) := by
  rw [fetch8, s.readVal_memory h, s.afterRead_memory h]

theorem fetchInstr_two_memory (hop : portAt s.pc = none) (hn : portAt (s.pc + 1) = none)
    (hrow : opcodeRow (s.cell s.pc) = .two f) :
    fetchInstr s = (f (s.cell (s.pc + 1)), s.setPC (s.pc + 1 + 1)) := by
  have hn' : portAt (s.setPC (s.pc + 1)).pc = none := hn
  rw [fetchInstr_eq, s.readVal_memory hop, s.readVal_memory hn, hrow, OpRow.hasOperand, if_pos rfl,
    fetch8_memory hop, fetch8_memory hn']
  rfl

end fetchFromMemory

/-! The end of a run (R292). -/

section endOfRun

variable {s t : State}

theorem State.boundary_mem_or_quiet (s : State) : s.boundary ∈ s.lines ∨ s.boundary = .quiet := by
  unfold State.boundary
  cases s.lines with
  | nil => exact .inr rfl
  | cons b rest => exact .inl (List.mem_cons_self ..)

theorem State.undisturbed_iff : s.undisturbed = true ↔
    ∀ b ∈ s.lines, b.reset = .idle ∧ (s.cc.i = true ∨ b.irq = false) := by
  simp [State.undisturbed]

theorem State.fetches_of_undisturbed (h : s.undisturbed = true) : s.fetches = true := by
  have hidle : s.boundary.reset = .idle ∧ (s.cc.i = true ∨ s.boundary.irq = false) := by
    obtain hmem | hquiet := s.boundary_mem_or_quiet
    · exact State.undisturbed_iff.1 h _ hmem
    · rw [hquiet]
      exact ⟨rfl, .inr rfl⟩
  obtain ⟨hreset, hmask | hirq⟩ := hidle
  · exact State.fetches_of_masked hreset hmask
  · exact State.fetches_iff.2 ⟨hreset, by rw [State.interruptTaken, hirq, Bool.false_and]⟩

theorem State.passBoundary_undisturbed (h : s.undisturbed = true) :
    s.passBoundary.undisturbed = true :=
  State.undisturbed_iff.2 fun b hb => State.undisturbed_iff.1 h b (List.mem_of_mem_tail hb)

theorem State.selfBranch_iff : s.selfBranch = true ↔ step s = .next s.passBoundary := by
  unfold State.selfBranch
  split
  · next t hstep => simp [hstep]
  · next hno => exact ⟨nofun, fun h => absurd h (hno _)⟩

theorem State.runEnded_iff :
    s.runEnded = true ↔ step s = .next s.passBoundary ∧ s.undisturbed = true := by
  rw [State.runEnded, Bool.and_eq_true, State.selfBranch_iff]

/-- BRA to itself: $FE is -2, and PC stands two past the opcode (42_flow_control.md R133). -/
theorem exec_bra_self (s : State) : exec (.bra 0xFE) (s.setPC (s.pc + 1 + 1)) = .next s := by
  have hback : s.pc + 1 + 1 + 0xFE = s.pc := by bv_omega
  have hexec : exec (.bra 0xFE) (s.setPC (s.pc + 1 + 1)) =
      .next (s.setPC (s.pc + 1 + 1 + 0xFE)) := rfl
  rw [hexec, hback]
  rfl

/-- JMP to its own address, wherever the fetch has left PC. -/
theorem exec_jmp_self (s : State) (b : Byte) : exec (.jmp (.ab s.pc)) (s.setPC b) = .next s := rfl

theorem step_self_branch (hfetches : s.fetches = true) (hop : portAt s.pc = none)
    (hn : portAt (s.pc + 1) = none)
    (hcode : s.cell s.pc = 0x21 ∧ s.cell (s.pc + 1) = 0xFE ∨
      s.cell s.pc = 0x33 ∧ s.cell (s.pc + 1) = s.pc) : step s = .next s.passBoundary := by
  rw [step_fetches hfetches]
  obtain ⟨hcell, hcell'⟩ | ⟨hcell, hcell'⟩ := hcode
  · have hrow : opcodeRow (s.passBoundary.cell s.passBoundary.pc) = .two .bra :=
      congrArg opcodeRow hcell
    rw [fetchInstr_two_memory (s := s.passBoundary) hop hn hrow, State.passBoundary_cell,
      State.passBoundary_pc, hcell']
    exact exec_bra_self s.passBoundary
  · have hrow : opcodeRow (s.passBoundary.cell s.passBoundary.pc) = .two fun n => .jmp (.ab n) :=
      congrArg opcodeRow hcell
    rw [fetchInstr_two_memory (s := s.passBoundary) hop hn hrow, State.passBoundary_cell,
      State.passBoundary_pc, hcell']
    exact exec_jmp_self s.passBoundary _

/-- No instruction reads the lines, so the step after a self-branch is that self-branch again. -/
theorem State.runEnded_passBoundary (h : s.runEnded = true) : s.passBoundary.runEnded = true := by
  obtain ⟨hstep, hundisturbed⟩ := State.runEnded_iff.1 h
  have hundisturbed' := State.passBoundary_undisturbed hundisturbed
  rw [step_fetches (State.fetches_of_undisturbed hundisturbed)] at hstep
  refine State.runEnded_iff.2 ⟨?_, hundisturbed'⟩
  rw [step_fetches (State.fetches_of_undisturbed hundisturbed')]
  have hlines : s.passBoundary.passBoundary = s.passBoundary.withLines s.lines.tail.tail := rfl
  rw [hlines, fetchInstr_withLines]
  exact exec_withLines _ hstep

/-- By induction on the number of steps: each one passes a boundary and leaves an ended run. -/
theorem run_of_runEnded (k : Nat) (s : State) (h : s.runEnded = true) :
    Sys2Proof.core.run k s = .next (s.withLines (s.lines.drop k)) ∧
      (s.withLines (s.lines.drop k)).runEnded = true := by
  induction k generalizing s with
  | zero => exact ⟨rfl, h⟩
  | succ k ih =>
    obtain ⟨hrun, hended⟩ := ih s.passBoundary (State.runEnded_passBoundary h)
    have hdrop : s.passBoundary.withLines (s.passBoundary.lines.drop k) =
        s.withLines (s.lines.drop (k + 1)) := by
      rw [State.passBoundary_lines, List.drop_tail]
      rfl
    rw [hdrop] at hrun hended
    exact ⟨(run_succ_of_step (M := Sys2Proof.core) k (State.runEnded_iff.1 h).1).trans hrun, hended⟩

end endOfRun

/-! The obligations. -/

/-- Settles O17: the reset vector is no port, so loading it is a plain read of its cell. -/
theorem resetMasksAndLoadsTheVector : Obligations.ResetMasksAndLoadsTheVector := by
  intro s hreset
  refine ⟨_, step_atBoundary hreset, ?_⟩
  rw [resetEntry_eq]
  exact ⟨⟨rfl, rfl, rfl, rfl, rfl, rfl⟩, ⟨fun _ => rfl, rfl⟩, ⟨rfl, rfl⟩, rfl, rfl⟩

/-- Settles O60: both bytes of the self-branch lie in memory, and a run that has ended only passes boundaries. -/
theorem endedRunStaysEnded : Obligations.EndedRunStaysEnded := by
  refine ⟨fun s hundisturbed hfa hfb hfc hcode => ?_, fun k s hended => ?_⟩
  · have hop : portAt s.pc = none := portAt_eq_none.2 ⟨hfb, hfc⟩
    have hn : portAt (s.pc + 1) = none :=
      portAt_eq_none.2 ⟨fun h => hfa (by bv_omega), fun h => hfb (by bv_omega)⟩
    exact State.runEnded_iff.2
      ⟨step_self_branch (State.fetches_of_undisturbed hundisturbed) hop hn hcode, hundisturbed⟩
  · obtain ⟨hrun, hended'⟩ := run_of_runEnded k s hended
    exact ⟨_, hrun, hended', rfl⟩

end Sys2Proof.Machine
